-- ==== Sys2Proof/Word.lean ====
section
/-! DEFINITION. The machine's words (spec/00_scope.md R5: `u8`, `u32`; every value is unsigned). -/

namespace Sys2Proof

/-- `u8`: one byte. -/
abbrev Byte := BitVec 8

/-- `u32`: one state, working or block word. -/
abbrev Word := BitVec 32

/-- The 6-bit round index, format `RIDX` (spec/30_encoding.md R80). -/
abbrev RIdx := BitVec 6

end Sys2Proof
end

