-- ==== Sys2Proof/Machine/Operands.lean ====
section
/-! DEFINITION. Operand assembly and byte order (spec/30_encoding.md R73, spec/20_memory.md R43, R44,
spec/00_scope.md R5). Every multi-byte quantity is little-endian and nothing is signed. -/

namespace Sys2Proof.Machine

/-- `LE32(b0, b1, b2, b3)` (R5, R43): the byte that arrives first is the least significant. -/
def le32 (b0 b1 b2 b3 : Byte) : Word := b3 ++ b2 ++ b1 ++ b0

/-- The unsigned little-endian value of a byte sequence; on eight bytes it is `LE64` (R5, R73). -/
def leNat : List Byte → Nat
  | [] => 0
  | b :: bs => b.toNat + 256 * leNat bs

/-- Byte `j` of `v`, bits `8j+7` to `8j` (R4, R5). -/
def byteOf {w : Nat} (v : BitVec w) (j : Nat) : Byte := v.extractLsb' (8 * j) 8

/-- `le_bytes(v, n)` (R5, R44). -/
def leBytes {w : Nat} (v : BitVec w) (n : Nat) : List Byte := (List.range n).map (byteOf v)

/-- The high nibble `byte[7:4]` (R4, R164). -/
def highNibble (b : Byte) : BitVec 4 := b.extractLsb' 4 4

/-- The low nibble `byte[3:0]` (R4, R164). -/
def lowNibble (b : Byte) : BitVec 4 := b.extractLsb' 0 4

/-- `RIDX` from its fields: `grp` in bits 5:4, `j` in bits 3:0, so `i = 16*grp + j` (R80). -/
def roundCode (grp : BitVec 2) (j : BitVec 4) : RIdx := grp ++ j

/-- Field `grp`, bits 5:4 of the round index (R80). -/
def roundGroup (i : RIdx) : BitVec 2 := i.extractLsb' 4 2

/-- Field `j`, bits 3:0 of the round index (R80). -/
def roundPos (i : RIdx) : BitVec 4 := i.extractLsb' 0 4

end Sys2Proof.Machine
end

