-- ==== Sys2Proof/Config.lean ====
section
/-! DEFINITION. What is fixed for this hardware (spec/00_scope.md R3) and the free values. -/

namespace Sys2Proof.Config

/-- `INIT[0]` (spec/00_scope.md R3, spec/10_state.md R10). -/
def init0 : Word := 0x67452301
/-- `INIT[1]`. -/
def init1 : Word := 0xEFCDAB89
/-- `INIT[2]`. -/
def init2 : Word := 0x98BADCFE
/-- `INIT[3]`. -/
def init3 : Word := 0x10325476

/-- `BUF_CAP`: bytes of storage of the carry buffer, also the size of a block (R3, R12). -/
def bufCap : Nat := 64

/-- What a byte of `BUF` reads as when nothing has written it. DESIGN CHOICE (log 1): the spec says
"unspecified; never read before written" (R21). -/
def unwrittenByte : Byte := 0x00

/-- FREE VALUE (log 5): word `slot` of draw number `draw`. A temporary of the Round Engine that a
`TRANSFORM` leaves behind holds "any value" (spec/93_implementation_defined.md U7). -/
opaque freeWord (draw slot : Nat) : Word

end Sys2Proof.Config
end

