-- ==== Sys2Proof/Machine/State.lean ====
section
/-! DEFINITION. The state (spec/10_state.md), the names of the ways a step can stop, and reset. -/

namespace Sys2Proof.Machine

/-- The digest state `H[0..3]` (R10). -/
structure Digest where
  h0 : Word
  h1 : Word
  h2 : Word
  h3 : Word
deriving DecidableEq, Repr

/-- The working words of one `TRANSFORM` (R14). -/
structure Working where
  a : Word
  b : Word
  c : Word
  d : Word
deriving DecidableEq, Repr

/-- The block words `M[0..15]` (R15). -/
abbrev Block := Vector Word 16

/-- The carry buffer's storage (R12, R40): cells in strictly rising order of address, none equal to what
an unlisted address reads as (`Memory.wf` in Machine/Ops.lean). -/
abbrev Memory := List Host.Cell

/-- Everything the spec gives one core. -/
structure State where
  /-- `H[0..3]` (R10). -/
  h : Digest
  /-- `LEN` (R11). -/
  len : BitVec 64
  /-- `BUF[0..63]` (R12). -/
  buf : Memory
  /-- `BUFLEN`, a 7-bit register (R13). -/
  buflen : BitVec 7
  /-- The working words `a, b, c, d` (R14). -/
  work : Working
  /-- The block words `M[0..15]` (R15). -/
  m : Block
  /-- The round index of the `TRANSFORM` that stands open between steps, `none` when there is none
  (R20(b); log 3). -/
  round : Option RIdx
  /-- The command stream from the command position on: the bytes not yet consumed (R40, R42). -/
  cs : List Byte
  /-- `cpos`, the number of bytes consumed (R20(a)). -/
  cpos : Nat
  /-- The response stream (R40, R42). -/
  resp : List Byte
  /-- THE MODEL'S OWN: the number of the next draw of free values (log 5). -/
  free : Nat
deriving DecidableEq, Repr

/-- Why the machine stops with a fault. The core raises none (spec/60_exceptions.md R190). -/
inductive Fault where
  /-- Raised by `FEED` and `FINALIZE` in a state whose `BUFLEN` is above 63 between commands. No run
  reaches one (R147, R193); spec/93_implementation_defined.md U5 wants a fault there, never a value.
  Safe (log 7). -/
  | carryOverfull
deriving DecidableEq, Repr

/-- Why a step is refused: the decoder's two verdicts (spec/60_exceptions.md R191). -/
inductive Refusal where
  /-- An instruction without a meaning in this model, by its mnemonic. No arm of `exec` uses it. Safe. -/
  | notModelled (mnemonic : String)
  /-- `DecodeError(ReservedOpcode, op)` (R78), raised by the step on a frame that starts with `op`. Safe. -/
  | reservedOpcode (op : Byte)
  /-- `Refused(LengthBound)` (R141, R191), raised by `FEED` and `FINALIZE` when `LEN` plus the payload's
  length passes `MAX_TOTAL_BYTES`. Safe. -/
  | lengthBound
deriving DecidableEq, Repr

/-- The initial digest state `INIT` (R3, R10). -/
def Digest.init : Digest := ⟨Config.init0, Config.init1, Config.init2, Config.init3⟩

/-- The state right after reset (R21, R221). The values of `buf`, `work`, `m`, `cpos` and `free` are the
model's (logs 1, 2, 4, 5). -/
def State.reset : State where
  h := Digest.init
  len := 0
  buf := []
  buflen := 0
  work := ⟨0, 0, 0, 0⟩
  m := Vector.replicate 16 0
  round := none
  cs := []
  cpos := 0
  resp := []
  free := 0

end Sys2Proof.Machine
end

