-- ==== Sys2Proof/Machine/Flags.lean ====
section
/-! DEFINITION. There are no flags and no condition codes (spec/10_state.md R17). The decisions a command
takes from data are "computed where they are used and stored nowhere"; they stand here, once each. -/

namespace Sys2Proof.Machine

/-- `MAX_TOTAL_BYTES` (spec/00_scope.md R3, spec/10_state.md R11). -/
def maxTotalBytes : Nat := 2 ^ 61 - 1

/-- `LEN + n > MAX_TOTAL_BYTES` (R77, R141, R191). -/
def overLengthBound (n : Nat) (s : State) : Bool := decide (maxTotalBytes < s.len.toNat + n)

/-- `BUFLEN != 0` (R143). -/
def carryNonEmpty (s : State) : Bool := decide (s.buflen.toNat ≠ 0)

/-- `BUFLEN = 64`, the moment a block boundary is being resolved (R13, R143). -/
def carryFull (s : State) : Bool := decide (s.buflen.toNat = Config.bufCap)

/-- `BUFLEN` above 63 between commands, which R13 rules out (R193). -/
def carryOverfull (s : State) : Bool := decide (Config.bufCap ≤ s.buflen.toNat)

/-- `rem < 56`: the tail is one block (R161). -/
def shortTail (rem : Nat) : Bool := decide (rem < 56)

end Sys2Proof.Machine
end

