-- ==== Sys2Proof/Machine/Ops.lean ====
section
/-! DEFINITION. The named operations over the carry buffer's memory, the registers and the streams. There
is no exception to take and none to return from: no traps, no handler, no saved registers, one mode
(spec/60_exceptions.md R190, R194, R196, R197, R198). -/

namespace Sys2Proof.Machine

/-- `BUF[a]`. An unlisted address reads as `Config.unwrittenByte` (log 1). -/
def Memory.read : Memory → Nat → Byte
  | [], _ => Config.unwrittenByte
  | (a, b) :: rest, x => if x = a then b else Memory.read rest x

/-- `MemWrite(x, 1, v)`, the only store there is (R6, R41, R46), keeping the canonical form. -/
def Memory.write : Memory → Nat → Byte → Memory
  | [], x, v => if v = Config.unwrittenByte then [] else [(x, v)]
  | (a, b) :: rest, x, v =>
    if x < a then
      if v = Config.unwrittenByte then (a, b) :: rest else (x, v) :: (a, b) :: rest
    else if x = a then
      if v = Config.unwrittenByte then rest else (a, v) :: rest
    else (a, b) :: Memory.write rest x v

/-- The canonical form of the cells at addresses from `lo` on. -/
def Memory.wfFrom (lo : Nat) : Memory → Bool
  | [] => true
  | (a, b) :: rest =>
    decide (lo ≤ a) && decide (a < Config.bufCap) && decide (b ≠ Config.unwrittenByte)
      && Memory.wfFrom (a + 1) rest

/-- The canonical form: addresses strictly rising and below 64 (R48), no cell equal to an unwritten byte. -/
def Memory.wf (mem : Memory) : Bool := Memory.wfFrom 0 mem

/-- `MemRead(addr, n)`: `n` bytes as one little-endian value (R6). -/
def Memory.readLE (mem : Memory) (addr : Nat) : Nat → Nat
  | 0 => 0
  | n + 1 => (mem.read addr).toNat + 256 * Memory.readLE mem (addr + 1) n

/-- `BUF[0..n)` (R41). -/
def Memory.bytes (mem : Memory) (n : Nat) : List Byte := (List.range n).map mem.read

/-- The meaningful bytes of the carry buffer, `BUF[0..BUFLEN)` (R12). -/
def State.buffered (s : State) : List Byte := s.buf.bytes s.buflen.toNat

/-- `BUF[BUFLEN] <- b ; BUFLEN <- BUFLEN + 1`: an append (R41). -/
def State.appendByte (s : State) (b : Byte) : State :=
  { s with buf := s.buf.write s.buflen.toNat b, buflen := s.buflen + 1 }

/-- Appends in order (R143, R145). -/
def State.appendBytes (s : State) (data : List Byte) : State := data.foldl State.appendByte s

/-- `BUFLEN <- 0`: the bytes are not cleared (R41). -/
def State.emptyCarry (s : State) : State := { s with buflen := 0 }

/-- `LEN <- LEN +64 n` (R142). -/
def State.addLen (s : State) (n : Nat) : State := { s with len := s.len + BitVec.ofNat 64 n }

/-- The Round Engine's temporaries after a `TRANSFORM` hold any value (U7, R14, R15): the next draw of
free values (log 5). -/
def State.forgetTemps (s : State) : State :=
  { s with
    work := ⟨Config.freeWord s.free 0, Config.freeWord s.free 1, Config.freeWord s.free 2,
      Config.freeWord s.free 3⟩
    m := Vector.ofFn fun k => Config.freeWord s.free (4 + k.val)
    free := s.free + 1 }

/-- `H <- v`, all four words together (R131). -/
def State.setH (s : State) (v : Digest) : State := { s with h := v }

/-- `(a, b, c, d) <- w` (R110). -/
def State.setWork (s : State) (w : Working) : State := { s with work := w }

/-- The session reset: `H <- INIT ; LEN <- 0 ; BUFLEN <- 0` (R140, R167). It leaves the Round Engine's
temporaries alone, a DESIGN CHOICE (log 20). -/
def State.resetSession (s : State) : State := { s with h := Digest.init, len := 0, buflen := 0 }

/-- `emit(out)` (R6, R76). -/
def State.emit (s : State) (out : List Byte) : State := { s with resp := s.resp ++ out }

/-- `cpos <- cpos + framelen`: the frame's bytes are consumed (R20, R47, R75). -/
def State.consume (s : State) (framelen : Nat) : State :=
  { s with cs := s.cs.drop framelen, cpos := s.cpos + framelen }

/-- The round after `i`: the index runs 0, 1, ..., 63 with no skip and no repeat (R20). -/
def nextRound (i : RIdx) : Option RIdx := if i = 63 then none else some (i + 1)

/-- The sequencer goes on to the next round, or closes the `TRANSFORM` after round 63 (R20, R115). -/
def State.advanceRound (s : State) (i : RIdx) : State := { s with round := nextRound i }

/-- Opens a `TRANSFORM(h, m)` for the rounds to run one by one: the working words are loaded from `h`,
the block words from `m`, and round 0 is next (R14, R115 first line; log 3). -/
def State.startTransform (s : State) (h : Digest) (m : Block) : State :=
  { s with work := ⟨h.h0, h.h1, h.h2, h.h3⟩, m := m, round := some 0 }

/-- What `FEED` and `FINALIZE` require before anything changes: the session bound (R141, R146, R168) and,
as the source's defensive assertion, `BUFLEN <= 63` (R193, U5; log 7). -/
def acceptPayload (data : List Byte) (s : State) (effect : State → State) :
    Host.Outcome State Fault Refusal :=
  if overLengthBound data.length s then .refused .lengthBound
  else if carryOverfull s then .fault .carryOverfull
  else .next (effect s)

/-- Does `f` to the state an instruction leaves, where it leaves one. -/
def onNext (f : State → State) :
    Host.Outcome State Fault Refusal → Host.Outcome State Fault Refusal
  | .next s => .next (f s)
  | .fault r => .fault r
  | .refused r => .refused r

end Sys2Proof.Machine
end

