-- ==== Sys2Proof/Machine/RoundEngine.lean ====
section
/-! DEFINITION. The Round Engine (spec/40_round_engine.md): primitives, tables, the round, `TRANSFORM`, and
the meanings of the four round micro-operations. -/

namespace Sys2Proof.Machine

/-- `F(x,y,z) = (x & y) | (~x & z)` (R101). -/
def mixF (x y z : Word) : Word := (x &&& y) ||| (~~~x &&& z)

/-- `G(x,y,z) = (x & z) | (y & ~z)` (R102). -/
def mixG (x y z : Word) : Word := (x &&& z) ||| (y &&& ~~~z)

/-- `H(x,y,z) = x ^ y ^ z` (R103). -/
def mixH (x y z : Word) : Word := x ^^^ y ^^^ z

/-- `I(x,y,z) = y ^ (x | ~z)` (R104). -/
def mixI (x y z : Word) : Word := y ^^^ (x ||| ~~~z)

/-- `rotl32(x, s)` for `0 < s < 32` (R105). -/
def rotl32 (x : Word) (s : Nat) : Word := (x <<< s) ||| (x >>> (32 - s))

/-- `K[0..15]` (R107, rows 0 to 3). -/
def kGroup0 : List Word :=
  [0xd76aa478, 0xe8c7b756, 0x242070db, 0xc1bdceee, 0xf57c0faf, 0x4787c62a, 0xa8304613, 0xfd469501,
   0x698098d8, 0x8b44f7af, 0xffff5bb1, 0x895cd7be, 0x6b901122, 0xfd987193, 0xa679438e, 0x49b40821]

/-- `K[16..31]` (R107, rows 4 to 7). -/
def kGroup1 : List Word :=
  [0xf61e2562, 0xc040b340, 0x265e5a51, 0xe9b6c7aa, 0xd62f105d, 0x02441453, 0xd8a1e681, 0xe7d3fbc8,
   0x21e1cde6, 0xc33707d6, 0xf4d50d87, 0x455a14ed, 0xa9e3e905, 0xfcefa3f8, 0x676f02d9, 0x8d2a4c8a]

/-- `K[32..47]` (R107, rows 8 to 11). -/
def kGroup2 : List Word :=
  [0xfffa3942, 0x8771f681, 0x6d9d6122, 0xfde5380c, 0xa4beea44, 0x4bdecfa9, 0xf6bb4b60, 0xbebfbc70,
   0x289b7ec6, 0xeaa127fa, 0xd4ef3085, 0x04881d05, 0xd9d4d039, 0xe6db99e5, 0x1fa27cf8, 0xc4ac5665]

/-- `K[48..63]` (R107, rows 12 to 15). -/
def kGroup3 : List Word :=
  [0xf4292244, 0x432aff97, 0xab9423a7, 0xfc93a039, 0x655b59c3, 0x8f0ccc92, 0xffeff47d, 0x85845dd1,
   0x6fa87e4f, 0xfe2ce6e0, 0xa3014314, 0x4e0811a1, 0xf7537e82, 0xbd3af235, 0x2ad7d2bb, 0xeb86d391]

/-- The round constant `K[i]` (R107). The 64 entries cover every 6-bit index. -/
def roundK (i : RIdx) : Word := (kGroup0 ++ kGroup1 ++ kGroup2 ++ kGroup3).getD i.toNat 0

/-- The rotate amounts of a group by `i mod 4` (R108). -/
def rotRow (grp : BitVec 2) : List Nat :=
  if grp = 0 then [7, 12, 17, 22]
  else if grp = 1 then [5, 9, 14, 20]
  else if grp = 2 then [4, 11, 16, 23]
  else [6, 10, 15, 21]

/-- The rotate amount `S[i]` (R108). -/
def roundS (i : RIdx) : Nat := (rotRow (roundGroup i)).getD (i.toNat % 4) 0

/-- The block word index `g(i)` (R109). -/
def roundG (i : RIdx) : Fin 16 :=
  if roundGroup i = 0 then Fin.ofNat 16 i.toNat
  else if roundGroup i = 1 then Fin.ofNat 16 (5 * i.toNat + 1)
  else if roundGroup i = 2 then Fin.ofNat 16 (3 * i.toNat + 5)
  else Fin.ofNat 16 (7 * i.toNat)

/-- The four-term sum `t` of a round (R110). -/
def roundSum (f : Word → Word → Word → Word) (m : Block) (i : RIdx) (w : Working) : Word :=
  w.a + f w.b w.c w.d + m.get (roundG i) + roundK i

/-- One round with mixing function `f` (R110). All four words are assigned at once. -/
def roundWith (f : Word → Word → Word → Word) (m : Block) (i : RIdx) (w : Working) : Working :=
  ⟨w.d, w.b + rotl32 (roundSum f m i w) (roundS i), w.b, w.c⟩

/-- The mixing function of the round's group (R81). -/
def mixOf (i : RIdx) : Word → Word → Word → Word :=
  if roundGroup i = 0 then mixF
  else if roundGroup i = 1 then mixG
  else if roundGroup i = 2 then mixH
  else mixI

/-- Round `i` of the network, its type by R81 (R110). -/
def roundOp (m : Block) (i : RIdx) (w : Working) : Working := roundWith (mixOf i) m i w

/-- Rounds `0` to `63` in order (R20, R115). -/
def allRounds (m : Block) (w : Working) : Working :=
  ((List.range 64).map (BitVec.ofNat 6)).foldl (fun w i => roundOp m i w) w

/-- The feed-forward additions that end a `TRANSFORM`, modulo 2^32 (R106, R115, R133). -/
def feedForward (h : Digest) (w : Working) : Digest :=
  ⟨h.h0 + w.a, h.h1 + w.b, h.h2 + w.c, h.h3 + w.d⟩

/-- `TRANSFORM(h, m)`, a pure function (R100, R115). -/
def transform (h : Digest) (m : Block) : Digest :=
  feedForward h (allRounds m ⟨h.h0, h.h1, h.h2, h.h3⟩)

/-- A round micro-operation acts on the working words with the block words; nothing else changes
(R110: no flags, no exceptions). -/
def stepRound (f : Word → Word → Word → Word) (i : RIdx) (s : State) :
    Host.Outcome State Fault Refusal :=
  .next (s.setWork (roundWith f s.m i s.work))

/-- `FF i`, rounds 0 to 15 (R111). -/
def execFf (j : BitVec 4) (s : State) : Host.Outcome State Fault Refusal :=
  stepRound mixF (roundCode 0 j) s

/-- `GG i`, rounds 16 to 31 (R112). -/
def execGg (j : BitVec 4) (s : State) : Host.Outcome State Fault Refusal :=
  stepRound mixG (roundCode 1 j) s

/-- `HH i`, rounds 32 to 47 (R113). -/
def execHh (j : BitVec 4) (s : State) : Host.Outcome State Fault Refusal :=
  stepRound mixH (roundCode 2 j) s

/-- `II i`, rounds 48 to 63 (R114). -/
def execIi (j : BitVec 4) (s : State) : Host.Outcome State Fault Refusal :=
  stepRound mixI (roundCode 3 j) s

end Sys2Proof.Machine
end

