-- ==== Sys2Proof/Machine/Compressor.lean ====
section
/-! DEFINITION. The Compressor (spec/41_compressor.md): `LOADBLOCK` and `COMPRESS`. -/

namespace Sys2Proof.Machine

/-- `LOADBLOCK(blk)` (R43, R130): word `k` from bytes `4k` to `4k+3`. Every caller hands it 64 bytes; a
missing byte, which no caller leaves, would read 0. -/
def loadBlock (blk : List Byte) : Block :=
  Vector.ofFn fun k =>
    le32 (blk.getD (4 * k.val) 0) (blk.getD (4 * k.val + 1) 0) (blk.getD (4 * k.val + 2) 0)
      (blk.getD (4 * k.val + 3) 0)

/-- What `COMPRESS(src, count)` does to `H` (R131): one `TRANSFORM` per 64 bytes, in order, each on the
state the one before returned. -/
def compressBlocks (h : Digest) (src : List Byte) : Nat → Digest
  | 0 => h
  | count + 1 => compressBlocks (transform h (loadBlock (src.take 64))) (src.drop 64) count

/-- `COMPRESS(src, count)` on the state (R131, R132). It writes `H` and, when a `TRANSFORM` ran, leaves
the Round Engine's temporaries at any value (log 5); with no `TRANSFORM` they stay as found (log 20). It never touches `BUF`, `BUFLEN` or `LEN`. -/
def compress (src : List Byte) (count : Nat) (s : State) : State :=
  if count = 0 then s else s.forgetTemps.setH (compressBlocks s.h src count)

end Sys2Proof.Machine
end

