-- ==== Sys2Proof/Machine/StreamBuffer.lean ====
section
/-! DEFINITION. The Stream Buffer (spec/42_stream_buffer.md): `RESET` and `FEED`. -/

namespace Sys2Proof.Machine

/-- `RESET` (R140). The bytes of `BUF` are not cleared. Legal in any state. DESIGN CHOICE (log 20): the working
words and the block words, which R21 leaves unspecified, stay as they were found. -/
def execReset (s : State) : Host.Outcome State Fault Refusal := .next s.resetSession

/-- `t`, how many bytes of a payload of `n` the top-up step takes (R143): none into an empty buffer. -/
def topUpCount (n : Nat) (s : State) : Nat :=
  if carryNonEmpty s then min (64 - s.buflen.toNat) n else 0

/-- If `BUFLEN = 64`: `COMPRESS(BUF[0..64), 1) ; BUFLEN <- 0` (R143). -/
def drainIfFull (s : State) : State :=
  if carryFull s then (compress (s.buf.bytes 64) 1 s).emptyCarry else s

/-- Step 1, top-up (R143). -/
def topUp (data : List Byte) (s : State) : State :=
  if carryNonEmpty s then drainIfFull (s.appendBytes (data.take (topUpCount data.length s))) else s

/-- Step 2, direct blocks from the payload that is left (R144). -/
def directBlocks (rest : List Byte) (s : State) : State :=
  compress (rest.take (64 * (rest.length / 64))) (rest.length / 64) s

/-- Step 3, the remainder goes to the carry buffer (R145). -/
def keepRemainder (rest : List Byte) (s : State) : State :=
  s.appendBytes (rest.drop (64 * (rest.length / 64)))

/-- `FEED(data)` in full, once it is accepted (R146). -/
def feed (data : List Byte) (s : State) : State :=
  let rest := data.drop (topUpCount data.length s)
  keepRemainder rest (directBlocks rest (topUp data (s.addLen data.length)))

/-- `FEED` (R141, R146). DESIGN CHOICE (log 20): when no block completes the temporaries stay as found. -/
def execFeed (data : List Byte) (s : State) : Host.Outcome State Fault Refusal :=
  acceptPayload data s (feed data)

/-- Whether `FEED` of `n` bytes stores to address `a` of `BUF`: the top-up bytes from `BUFLEN` on (R143),
and the remainder's bytes from 0 on, when the buffer was empty or has been drained (R145). -/
def feedStoresAt (n : Nat) (s : State) (a : Nat) : Bool :=
  (decide (s.buflen.toNat ≤ a) && decide (a < s.buflen.toNat + topUpCount n s))
    || decide (a < (n - topUpCount n s) % 64)

end Sys2Proof.Machine
end

