-- ==== Sys2Proof/Machine/Finalizer.lean ====
section
/-! DEFINITION. Padding and Finalizer (spec/43_finalizer.md): `PAD`, `HEXRENDER`, `FINALIZE`. -/

namespace Sys2Proof.Machine

/-- `pad_len` from `rem` (R161). -/
def padLen (rem : Nat) : Nat := if shortTail rem then 56 - rem else 120 - rem

/-- `PAD(total_len)` (R162). -/
def pad (total : BitVec 64) : List Byte :=
  0x80 :: (List.replicate (padLen (total.toNat % 64) - 1) 0x00 ++ leBytes (total * 8) 8)

/-- `tail = BUF[0..rem) ++ PAD(total_len)` with `rem = LEN mod 64` (R163, R168). -/
def tailOf (s : State) : List Byte := s.buf.bytes (s.len.toNat % 64) ++ pad s.len

/-- `hexdigit(n)` as its ASCII code, lowercase (R165). -/
def hexdigit (n : BitVec 4) : Byte :=
  if n.toNat ≤ 9 then BitVec.ofNat 8 (0x30 + n.toNat) else BitVec.ofNat 8 (0x61 + (n.toNat - 10))

/-- The 16 digest bytes `dg`, an intermediate value (R166). -/
def digestBytes (h : Digest) : List Byte :=
  leBytes h.h0 4 ++ leBytes h.h1 4 ++ leBytes h.h2 4 ++ leBytes h.h3 4

/-- One byte as two characters, high nibble first (R164). -/
def hexByte (b : Byte) : List Byte := [hexdigit (highNibble b), hexdigit (lowNibble b)]

/-- `HEXRENDER(H)`, 32 characters (R164, R166). -/
def hexRender (h : Digest) : List Byte := (digestBytes h).flatMap hexByte

/-- The padding step: the tail goes through the Compressor, one block or two (R163). -/
def compressTail (s : State) : State := compress (tailOf s) ((tailOf s).length / 64) s

/-- `out = HEXRENDER(H)`, then the session reset, then `emit(out)` (R164, R167, R168). -/
def renderAndReset (s : State) : State := s.resetSession.emit (hexRender s.h)

/-- `FINALIZE(data)` in full, once it is accepted (R160, R168). -/
def finalize (data : List Byte) (s : State) : State := renderAndReset (compressTail (feed data s))

/-- `FINALIZE` (R160, R168). -/
def execFinalize (data : List Byte) (s : State) : Host.Outcome State Fault Refusal :=
  acceptPayload data s (finalize data)

end Sys2Proof.Machine
end

