-- ==== Sys2Proof/Syntax.lean ====
section
/-! DEFINITION. The instructions: one constructor per row of spec/opcode_table.json. -/

namespace Sys2Proof

/-- The three host commands (spec/30_encoding.md, the abstract `Command` type) and the four round
micro-operations of the Round Engine, whose operand is the position `j` in the group (R80, R81). -/
inductive Instr where
  /-- `RESET` (R140). -/
  | reset
  /-- `FEED data` (R146). -/
  | feed (data : List Byte)
  /-- `FINALIZE data` (R168). -/
  | finalize (data : List Byte)
  /-- `FF i` with `i = j`, rounds 0 to 15 (R111). -/
  | ff (j : BitVec 4)
  /-- `GG i` with `i = 16 + j`, rounds 16 to 31 (R112). -/
  | gg (j : BitVec 4)
  /-- `HH i` with `i = 32 + j`, rounds 32 to 47 (R113). -/
  | hh (j : BitVec 4)
  /-- `II i` with `i = 48 + j`, rounds 48 to 63 (R114). -/
  | ii (j : BitVec 4)
deriving DecidableEq, Repr

end Sys2Proof
end

