-- ==== Sys2Proof/Machine/Dispatch.lean ====
section
/-! DEFINITION. One arm per constructor of Instr. -/

namespace Sys2Proof.Machine

def exec (i : Instr) (s : State) : Host.Outcome State Fault Refusal :=
  match i with
  | .reset => Sys2Proof.Machine.execReset s
  | .feed data => Sys2Proof.Machine.execFeed data s
  | .finalize data => Sys2Proof.Machine.execFinalize data s
  | .ff j => Sys2Proof.Machine.execFf j s
  | .gg j => Sys2Proof.Machine.execGg j s
  | .hh j => Sys2Proof.Machine.execHh j s
  | .ii j => Sys2Proof.Machine.execIi j s

end Sys2Proof.Machine
end

