-- ==== Sys2Proof/WellFormed.lean ====
section
/-! DEFINITION. Which instructions have an encoding. -/

namespace Sys2Proof

/-- The payload length fits the frame's 64-bit field `N` (spec/30_encoding.md R72). -/
def payloadFits (data : List Byte) : Bool := decide (data.length < 2 ^ 64)

/-- The one check: a payload has a length that `N` can say. All 64 round codes are defined (R81), so a
round micro-operation is always well formed. -/
def wellFormed : Instr → Bool
  | .reset => true
  | .feed data => payloadFits data
  | .finalize data => payloadFits data
  | .ff _ => true
  | .gg _ => true
  | .hh _ => true
  | .ii _ => true

end Sys2Proof
end

