-- ==== Sys2Proof/Decode.lean ====
section
/-! DEFINITION. The decoders, total on any bytes and on any round index, and after them the encoder. The
spec has two code spaces that never meet: frames on the command port (spec/30_encoding.md R70 to R79) and
the internal 6-bit round index (R80, R81). -/

namespace Sys2Proof

open Sys2Proof.Machine

/-- `OPC_RESET` (spec/00_scope.md R3, R74). -/
def opcReset : Byte := 0x00
/-- `OPC_FEED`. -/
def opcFeed : Byte := 0x01
/-- `OPC_FINALIZE`. -/
def opcFinalize : Byte := 0x02

/-- What the decoder makes of the bytes at the command position (R75). -/
inductive FrameVerdict where
  /-- `cpos = len(cs)`: no frame, the core waits. -/
  | noFrame
  /-- `N` or the payload has not all arrived: not a command yet (R79). -/
  | incomplete
  /-- Byte 0 is 0x03 to 0xFF: `DecodeError(ReservedOpcode, op)` (R78). -/
  | reservedOpcode (op : Byte)
  /-- A whole frame: the command and `framelen` (R82). -/
  | command (i : Instr) (framelen : Nat)
deriving DecidableEq, Repr

/-- A `CMDP` frame after its opcode (R72, R75): eight bytes of `N`, then `N` payload bytes. -/
def decodePayload (mk : List Byte → Instr) (rest : List Byte) : FrameVerdict :=
  if rest.length < 8 then .incomplete
  else if (rest.drop 8).length < leNat (rest.take 8) then .incomplete
  else .command (mk ((rest.drop 8).take (leNat (rest.take 8)))) (9 + leNat (rest.take 8))

/-- R75. The opcode is looked at before anything else (spec/60_exceptions.md R195). -/
def decodeFrame : List Byte → FrameVerdict
  | [] => .noFrame
  | op :: rest =>
    if op = opcReset then .command .reset 1
    else if op = opcFeed then decodePayload .feed rest
    else if op = opcFinalize then decodePayload .finalize rest
    else .reservedOpcode op

/-- R81: the group selects the round type. There is no reserved round index. -/
def decodeRound (i : RIdx) : Instr :=
  if roundGroup i = 0 then .ff (roundPos i)
  else if roundGroup i = 1 then .gg (roundPos i)
  else if roundGroup i = 2 then .hh (roundPos i)
  else .ii (roundPos i)

/-- An instruction's words: a frame of bytes, or a round index. -/
inductive Encoding where
  | frame (bytes : List Byte)
  | ridx (code : RIdx)
deriving DecidableEq, Repr

/-- Format `CMDP` (R72). -/
def encodePayload (op : Byte) (data : List Byte) : List Byte :=
  op :: (leBytes (BitVec.ofNat 64 data.length) 8 ++ data)

/-- The encoding of every instruction (R71, R72, R74, R80, R81). -/
def encode : Instr → Encoding
  | .reset => .frame [opcReset]
  | .feed data => .frame (encodePayload opcFeed data)
  | .finalize data => .frame (encodePayload opcFinalize data)
  | .ff j => .ridx (roundCode 0 j)
  | .gg j => .ridx (roundCode 1 j)
  | .hh j => .ridx (roundCode 2 j)
  | .ii j => .ridx (roundCode 3 j)

/-- Reads one encoding whole: a frame must be one command with no byte left over. -/
def decode : Encoding → Option Instr
  | .frame bytes =>
    match decodeFrame bytes with
    | .command i n => if n = bytes.length then some i else none
    | .noFrame => none
    | .incomplete => none
    | .reservedOpcode _ => none
  | .ridx code => some (decodeRound code)

/-- Which code space a word of spec/opcode_table.json belongs to (log 11). The table's `RIDX` rows have
6 bits, one whole byte of table word; byte values 0, 1, 2 are the three opcodes, and 3 to 63 name no
command. -/
def tableIsRound (nbits w : Nat) : Bool :=
  decide (nbits < 8) || (decide (nbits = 8) && decide (3 ≤ w % 256) && decide (w % 256 < 64))

/-- Byte `j` of a table word of `nbits` bits, the bits above them zero. -/
def tableByte (nbits w j : Nat) : Byte := BitVec.ofNat 8 ((w % 2 ^ nbits) / 256 ^ j)

/-- A table word as the frame it stands for: one byte for `RESET`, else the opcode, `N` and `N` payload
bytes, in stream order. -/
def tableFrame (nbits w : Nat) : List Byte :=
  if tableByte nbits w 0 = opcReset then [opcReset]
  else (List.range (9 + leNat ((List.range 8).map fun j => tableByte nbits w (j + 1)))).map
    (tableByte nbits w)

/-- The instruction the decoders read from a word of the opcode table (the host's question). -/
def decodeTableWord (nbits w : Nat) : Option Instr :=
  if tableIsRound nbits w then some (decodeRound (BitVec.ofNat 6 w))
  else
    match decodeFrame (tableFrame nbits w) with
    | .command i _ => some i
    | .noFrame => none
    | .incomplete => none
    | .reservedOpcode _ => none

end Sys2Proof
end

