-- ==== Sys2Proof/Machine/Fetch.lean ====
section
/-! DEFINITION. What a step runs next (spec/30_encoding.md R75; spec/10_state.md R20). -/

namespace Sys2Proof.Machine

/-- What stands at the machine's two positions. -/
inductive Fetched where
  /-- No complete frame: the core waits (R75, R79). -/
  | wait
  /-- A frame with a reserved opcode (R78). -/
  | reserved (op : Byte)
  /-- A whole command frame and its length (R75). -/
  | frame (i : Instr) (framelen : Nat)
  /-- The next round of a `TRANSFORM` that stands open (R20(b), R81; log 3). -/
  | round (i : RIdx)
deriving DecidableEq, Repr

/-- The frame decoder's verdict at the command position. -/
def fetchFrame (cs : List Byte) : Fetched :=
  match decodeFrame cs with
  | .noFrame => .wait
  | .incomplete => .wait
  | .reservedOpcode op => .reserved op
  | .command i n => .frame i n

/-- An open `TRANSFORM` runs to its end first: a command is complete before the next frame is looked at
(spec/20_memory.md R51, R52). -/
def fetch (s : State) : Fetched :=
  match s.round with
  | some i => .round i
  | none => fetchFrame s.cs

/-- Puts a word of the opcode table where the next step fetches (log 11): a frame at the front of the
command stream with no `TRANSFORM` open, or a round index into the sequencer. -/
def placeTableWord (s : State) (nbits w : Nat) : State :=
  if tableIsRound nbits w then { s with round := some (BitVec.ofNat 6 w) }
  else { s with round := none, cs := tableFrame nbits w }

end Sys2Proof.Machine
end

