-- ==== Sys2Proof/Machine/Step.lean ====
section
/-! DEFINITION. The step: one command, or one round of a `TRANSFORM` that stands open. -/

namespace Sys2Proof.Machine

/-- One step (spec/20_memory.md R52; spec/30_encoding.md R75, R78, R79). With no complete frame there is no
step to take and the state is kept (spec/60_exceptions.md R201; log 6). -/
def step (s : State) : Host.Outcome State Fault Refusal :=
  match fetch s with
  | .wait => .next s
  | .reserved op => .refused (.reservedOpcode op)
  | .frame i n => onNext (fun t => t.consume n) (exec i s)
  | .round i => onNext (fun t => t.advanceRound i) (exec (decodeRound i) s)

/-- The host's question: `s` with one word of the opcode table placed where `step` fetches next. -/
def State.withFetchWord (s : State) (nbits w : Nat) : State := placeTableWord s nbits w

end Sys2Proof.Machine
end

