-- ==== Sys2Proof/Machine/Assembler.lean ====
section
/-! DEFINITION. The notation for command programs (spec/30_encoding.md R83) and the host's
pseudo-instructions (R84; spec/43_finalizer.md R172 to R174), as abstract syntax. -/

namespace Sys2Proof.Machine

/-- `<bytes>` (R83). -/
inductive ByteExpr where
  /-- `""`. -/
  | empty
  /-- A double-quoted string of printable ASCII characters. -/
  | text (chars : List Char)
  /-- `x"..."`: hexadecimal digits, two per byte. -/
  | hex (digits : List Char)
  /-- `rep(<byte>, <count>)`. -/
  | rep (b : Byte) (count : Nat)
  /-- Pieces joined with `++`. -/
  | cat (x y : ByteExpr)
deriving DecidableEq, Repr

/-- The code of a printable ASCII character other than the closing quote (R83: no escapes). -/
def asciiCode (c : Char) : Option Byte :=
  if 0x20 ≤ c.toNat ∧ c.toNat ≤ 0x7e ∧ c.toNat ≠ 0x22 then some (BitVec.ofNat 8 c.toNat) else none

/-- The value of a hexadecimal digit; both cases of letter stand (DESIGN CHOICE, log 12). -/
def hexValue (c : Char) : Option Nat :=
  if 0x30 ≤ c.toNat ∧ c.toNat ≤ 0x39 then some (c.toNat - 0x30)
  else if 0x61 ≤ c.toNat ∧ c.toNat ≤ 0x66 then some (c.toNat - 0x61 + 10)
  else if 0x41 ≤ c.toNat ∧ c.toNat ≤ 0x46 then some (c.toNat - 0x41 + 10)
  else none

/-- Digits two by two, the first of a pair the high nibble; an odd digit left over is no byte. -/
def hexPairs : List Char → Option (List Byte)
  | [] => some []
  | [_] => none
  | x :: y :: rest =>
    match hexValue x, hexValue y, hexPairs rest with
    | some u, some v, some bs => some (BitVec.ofNat 8 (16 * u + v) :: bs)
    | _, _, _ => none

/-- The bytes an expression stands for, where it is legal. -/
def ByteExpr.bytes : ByteExpr → Option (List Byte)
  | .empty => some []
  | .text chars => chars.mapM asciiCode
  | .hex digits => hexPairs digits
  | .rep b count => some (List.replicate count b)
  | .cat x y =>
    match x.bytes, y.bytes with
    | some u, some v => some (u ++ v)
    | _, _ => none

/-- `NEW` expands to `RESET` (R172). -/
def expandNew : List Instr := [.reset]

/-- `EVAL <bytes>` expands to `RESET ; FINALIZE <bytes>` (R173). -/
def expandEval (data : List Byte) : List Instr := [.reset, .finalize data]

/-- `FINALIZE_OUT <bytes>, out`: the command the core sees (R174). -/
def expandFinalizeOut (data : List Byte) : List Instr := [.finalize data]

/-- `FINALIZE_OUT`'s host side: the 32 response bytes go to the end of the host's own buffer, and the
view covers only them (R174). -/
def finalizeOut (out response : List Byte) : List Byte × List Byte := (out ++ response, response)

/-- One line of a command program, pseudo-instructions included (R83, R84). -/
inductive Line where
  | reset
  | feed (e : ByteExpr)
  | finalize (e : ByteExpr)
  | new
  | eval (e : ByteExpr)
  | finalizeOut (e : ByteExpr)
deriving DecidableEq, Repr

/-- The commands a line stands for. -/
def Line.expand : Line → Option (List Instr)
  | .reset => some [.reset]
  | .feed e => e.bytes.map fun d => [.feed d]
  | .finalize e => e.bytes.map fun d => [.finalize d]
  | .new => some expandNew
  | .eval e => e.bytes.map expandEval
  | .finalizeOut e => e.bytes.map expandFinalizeOut

/-- The frame bytes of a command; a round has none, it never stands on the command port (R80). -/
def frameBytes (i : Instr) : List Byte :=
  match encode i with
  | .frame bytes => bytes
  | .ridx _ => []

/-- The command stream of a list of commands: frames with nothing between them (R70). -/
def streamOf (cmds : List Instr) : List Byte := cmds.flatMap frameBytes

/-- The command stream of a program, where every line is legal. -/
def assemble (lines : List Line) : Option (List Byte) :=
  (lines.mapM Line.expand).map fun cmds => streamOf cmds.flatten

/-- The 64 rounds of a `TRANSFORM` as a program of micro-operations: the one program the Round Engine runs
(spec/95_test_vectors.md P7; R20, R81). -/
def roundProgram : List Instr := (List.range 64).map fun i => decodeRound (BitVec.ofNat 6 i)

end Sys2Proof.Machine
end

