-- ==== Sys2Proof/Machine/Port.lean ====
section
/-! DEFINITION. What the host does to the core from outside: the two streams (spec/30_encoding.md R70),
power-on and the reset input (spec/70_reset_and_hazards.md R220), and going on after a length refusal
(spec/60_exceptions.md R197). None of these is a step of the core. -/

namespace Sys2Proof.Machine

/-- The host appends bytes to the command stream (R42, R70). -/
def hostSend (bytes : List Byte) (s : State) : State := { s with cs := s.cs ++ bytes }

/-- The host takes the first `n` bytes of the response stream, `out[0]` first (R42). -/
def hostReceive (n : Nat) (s : State) : List Byte × State :=
  (s.resp.take n, { s with resp := s.resp.drop n })

/-- Power-on (R220(a)). -/
def powerOn : State := State.reset

/-- The reset input (R220(b)): the session reset, both streams emptied, a command in progress discarded,
framing starts afresh. `BUF`'s bytes stay (log 10); the temporaries are any value (log 5). -/
def resetInput (s : State) : State :=
  { s.resetSession.forgetTemps with round := none, cs := [], cpos := 0, resp := [] }

/-- After `Refused(LengthBound)` the host may go on with any command (R197): the refused frame is
consumed and nothing else changes (log 9). A stream that starts with anything but a whole frame stays. -/
def skipRefusedFrame (s : State) : State :=
  match decodeFrame s.cs with
  | .command _ n => s.consume n
  | .noFrame => s
  | .incomplete => s
  | .reservedOpcode _ => s

end Sys2Proof.Machine
end

