-- ==== Sys2Proof/Machine/System.lean ====
section
/-! DEFINITION. Several cores (spec/60_exceptions.md R199, spec/10_state.md R23): `NUM_INSTANCES` is the length
of the list (R3: OPEN; log 13), and a system is the product of its cores. -/

namespace Sys2Proof.Machine

/-- The cores of a system, each with its own state and streams. -/
abbrev System := List State

/-- `k` cores after reset. -/
def resetSystem (k : Nat) : System := List.replicate k State.reset

/-- Core `k` takes one step; a core that is not there takes none. -/
def stepCore (k : Nat) (sys : System) : Host.Outcome System Fault Refusal :=
  match sys[k]? with
  | none => .next sys
  | some s =>
    match step s with
    | .next t => .next (sys.set k t)
    | .fault r => .fault r
    | .refused r => .refused r

/-- One more step of a core, unless it has stopped: a stopped core keeps its verdict. -/
def goOn : Host.Outcome State Fault Refusal → Host.Outcome State Fault Refusal
  | .next s => step s
  | .fault r => .fault r
  | .refused r => .refused r

/-- Cores that step in the order `sched` names them, each as far as it has come. A core that stops does not
stop the others (R199, log 13). -/
def runInterleaved (sched : List Nat) (cores : List (Host.Outcome State Fault Refusal)) :
    List (Host.Outcome State Fault Refusal) :=
  sched.foldl (fun cs k => cs.modify k goOn) cores

end Sys2Proof.Machine
end

