-- ==== Sys2Proof/Safety.lean ====
section
/-! DEFINITION. What counts as a good state and a finished run, in the terms the statements use. -/

namespace Sys2Proof.Machine

/-- The invariants of R11, R12, R13 (spec/10_state.md) and R193 (spec/60_exceptions.md). -/
structure StateInv (s : State) : Prop where
  /-- The carry buffer's memory keeps its canonical form, inside addresses 0 to 63. -/
  bufCanonical : s.buf.wf = true
  /-- `BUFLEN <= 63` between commands. -/
  carryShort : s.buflen.toNat < 64
  /-- `BUFLEN = LEN mod 64`. -/
  carryIsLenMod : s.buflen.toNat = s.len.toNat % 64
  /-- `LEN <= MAX_TOTAL_BYTES`. -/
  lenBounded : s.len.toNat ≤ maxTotalBytes

/-- The part of the state the spec calls the session: `H`, `LEN`, `BUFLEN` and `BUF[0..BUFLEN)`. The bytes
above are not state (spec/20_memory.md R50; R170). -/
structure Session where
  h : Digest
  len : BitVec 64
  buflen : BitVec 7
  buffered : List Byte
deriving DecidableEq, Repr

/-- The session of a state. -/
def State.session (s : State) : Session := ⟨s.h, s.len, s.buflen, s.buffered⟩

/-- The session right after any of the four resets (R21, R220). -/
def Session.initial : Session := ⟨Digest.init, 0, 0, []⟩

/-- No `TRANSFORM` stands open between steps (spec/20_memory.md R52). -/
def idle (s : State) : Prop := s.round = none

/-- The run is over: every complete frame has been executed (spec/70_reset_and_hazards.md R229). -/
def settled (s : State) : Prop := fetch s = .wait

/-- Instructions one after another on the state alone, stopping at the first that gives no next state. -/
def runInstrs : List Instr → State → Host.Outcome State Fault Refusal
  | [], s => .next s
  | i :: rest, s =>
    match exec i s with
    | .next t => runInstrs rest t
    | .fault r => .fault r
    | .refused r => .refused r

/-- `FINALIZE`'s answer for a whole message: `HEXRENDER(COMPRESS from INIT over s ++ PAD(n))` (R171). -/
def digestOf (msg : List Byte) : List Byte :=
  hexRender (compressBlocks Digest.init (msg ++ pad (BitVec.ofNat 64 msg.length))
    ((msg.length + padLen (msg.length % 64) + 8) / 64))

end Sys2Proof.Machine
end

