-- ==== Sys2Proof/Certificates/Slice0/Obligations.lean ====
section
/-! DEFINITION. The statements for the provers. -/

open Sys2Proof Sys2Proof.Machine

/-! ### Reset -/

/-- R221: the reset state, and the digest it answers to `FINALIZE ""`. -/
def Obligations.ResetStateAndItsFirstDigest : Prop :=
  State.reset.h = ⟨0x67452301, 0xEFCDAB89, 0x98BADCFE, 0x10325476⟩ ∧ State.reset.len = 0 ∧
  State.reset.buflen = 0 ∧ State.reset.cs = [] ∧ State.reset.resp = [] ∧
  ∃ t, step (hostSend [0x02, 0, 0, 0, 0, 0, 0, 0, 0] State.reset) = .next t ∧
    (ByteExpr.text "d41d8cd98f00b204e9800998ecf8427e".toList).bytes = some t.resp

/-- The invariant of every step holds right after reset, and no `TRANSFORM` stands open. -/
def Obligations.ResetStateMeetsTheInvariant : Prop := StateInv State.reset ∧ idle State.reset

/-- R140: `RESET` completes in every state, writes `H`, `LEN`, `BUFLEN` and nothing else, changes nothing
straight after another `RESET` or a `FINALIZE`, and the rule's worked example. Two parts of the frame are the model's
choice: that the working words and the block words stay as found (log 20; R21 leaves them unspecified), and that the
sequencer does (log 3). -/
def Obligations.ResetCommandReinitializesTheSession : Prop :=
  (∀ s : State, exec .reset s =
    .next { s with h := ⟨0x67452301, 0xEFCDAB89, 0x98BADCFE, 0x10325476⟩, len := 0, buflen := 0 }) ∧
  (∀ s t : State, exec .reset s = .next t → exec .reset t = .next t) ∧
  (∀ (data : List Byte) (s t : State), exec (.finalize data) s = .next t → exec .reset t = .next t) ∧
  ∃ u v, exec (.feed [0x78, 0x79, 0x7a]) State.reset = .next u ∧
    u.session = ⟨Digest.init, 3, 3, [0x78, 0x79, 0x7a]⟩ ∧
    exec .reset u = .next v ∧ v.session = ⟨Digest.init, 0, 0, []⟩

/-- R220: power-on, the reset input, `RESET` and the end of `FINALIZE` give one session state; the first
two also empty the streams and drop an open `TRANSFORM`, the last two keep what is left of the streams. -/
def Obligations.FourResetsGiveOneState : Prop :=
  (powerOn.session = Session.initial ∧ powerOn.cs = [] ∧ powerOn.resp = [] ∧ idle powerOn) ∧
  (∀ s : State, (resetInput s).session = Session.initial ∧ (resetInput s).cs = [] ∧
    (resetInput s).resp = [] ∧ idle (resetInput s)) ∧
  (∀ s : State, ∃ t, exec .reset s = .next t ∧ t.session = Session.initial ∧ t.cs = s.cs ∧
    t.resp = s.resp) ∧
  (∀ (data : List Byte) (s t : State), exec (.finalize data) s = .next t →
    t.session = Session.initial ∧ t.cs = s.cs ∧ s.resp <+: t.resp)

/-! ### The Round Engine -/

/-- R101 to R104: the four mixing functions, bit by bit, and the rules' examples. -/
def Obligations.MixingFunctionsBitByBit : Prop :=
  (∀ (x y z : Word) (k : Nat), k < 32 →
    (mixF x y z).getLsbD k = (if x.getLsbD k then y.getLsbD k else z.getLsbD k) ∧
    (mixG x y z).getLsbD k = (if z.getLsbD k then x.getLsbD k else y.getLsbD k) ∧
    (mixH x y z).getLsbD k = ((x.getLsbD k ^^ y.getLsbD k) ^^ z.getLsbD k) ∧
    (mixI x y z).getLsbD k = (y.getLsbD k ^^ (x.getLsbD k || !z.getLsbD k))) ∧
  mixF 0xefcdab89 0x98badcfe 0x10325476 = 0x98badcfe ∧
  mixG 0xd6819c6a 0x5aa53f75 0x374943a7 = 0x5ea53c72 ∧
  mixH 0xa2205f1f 0x1c31c384 0xae7813db = 0x10698f40 ∧
  mixI 0xca7d2dbd 0x68d84ea2 0x22a31f54 = 0xb7a5a31d

/-- R105: bit `k` moves to bit `(k + s) mod 32`, for every amount; only sixteen amounts occur; the rule's
examples. -/
def Obligations.RotateMovesEveryBit : Prop :=
  (∀ (x : Word) (s k : Nat), 0 < s → s < 32 → k < 32 →
    (rotl32 x s).getLsbD ((k + s) % 32) = x.getLsbD k) ∧
  (∀ i : RIdx, roundS i ∈ [4, 5, 6, 7, 9, 10, 11, 12, 14, 15, 16, 17, 20, 21, 22, 23]) ∧
  rotl32 0xd76aa4f7 7 = 0xb5527beb ∧ rotl32 0x80000000 4 = 0x00000008 ∧
  rotl32 0x00000001 23 = 0x00800000

/-- R108, R109: the rotate amount depends only on the group and `i mod 4`; the block word index has the
rule's formula in each group, evaluated with `i` or with `j`; in each group every block word is used once. -/
def Obligations.RotateAndWordTables : Prop :=
  (∀ j : BitVec 4,
    roundS (roundCode 0 j) = [7, 12, 17, 22].getD (j.toNat % 4) 0 ∧
    roundS (roundCode 1 j) = [5, 9, 14, 20].getD (j.toNat % 4) 0 ∧
    roundS (roundCode 2 j) = [4, 11, 16, 23].getD (j.toNat % 4) 0 ∧
    roundS (roundCode 3 j) = [6, 10, 15, 21].getD (j.toNat % 4) 0 ∧
    (roundG (roundCode 0 j)).val = j.toNat ∧
    (roundG (roundCode 1 j)).val = (5 * j.toNat + 1) % 16 ∧
    (roundG (roundCode 2 j)).val = (3 * j.toNat + 5) % 16 ∧
    (roundG (roundCode 3 j)).val = (7 * j.toNat) % 16 ∧
    (roundG (roundCode 1 j)).val = (5 * (16 + j.toNat) + 1) % 16 ∧
    (roundG (roundCode 2 j)).val = (3 * (32 + j.toNat) + 5) % 16 ∧
    (roundG (roundCode 3 j)).val = (7 * (48 + j.toNat)) % 16) ∧
  ∀ (grp : BitVec 2) (k : Fin 16), ∃ j : BitVec 4, roundG (roundCode grp j) = k ∧
    ∀ j' : BitVec 4, roundG (roundCode grp j') = k → j' = j

/-- R111: `FF i` completes in every state, and its whole effect; the rule's worked example. -/
def Obligations.RoundFFReplacesOneWorkingWord : Prop :=
  (∀ (j : BitVec 4) (s : State), exec (.ff j) s = .next { s with
    work := ⟨s.work.d,
      s.work.b + rotl32 (s.work.a + ((s.work.b &&& s.work.c) ||| (~~~s.work.b &&& s.work.d))
        + s.m.get (Fin.ofNat 16 j.toNat) + kGroup0.getD j.toNat 0)
        ([7, 12, 17, 22].getD (j.toNat % 4) 0),
      s.work.b, s.work.c⟩ }) ∧
  ∀ s : State, s.work = ⟨0x67452301, 0xefcdab89, 0x98badcfe, 0x10325476⟩ → s.m.get 0 = 0x00000080 →
    exec (.ff 0) s = .next { s with work := ⟨0x10325476, 0xa5202774, 0xefcdab89, 0x98badcfe⟩ }

/-- R112: `GG i` completes in every state, and its whole effect; the rule's worked example. -/
def Obligations.RoundGGReplacesOneWorkingWord : Prop :=
  (∀ (j : BitVec 4) (s : State), exec (.gg j) s = .next { s with
    work := ⟨s.work.d,
      s.work.b + rotl32 (s.work.a + ((s.work.b &&& s.work.d) ||| (s.work.c &&& ~~~s.work.d))
        + s.m.get (Fin.ofNat 16 (5 * (16 + j.toNat) + 1)) + kGroup1.getD j.toNat 0)
        ([5, 9, 14, 20].getD (j.toNat % 4) 0),
      s.work.b, s.work.c⟩ }) ∧
  ∀ s : State, s.work = ⟨0xf56c7cf1, 0xd6819c6a, 0x5aa53f75, 0x374943a7⟩ → s.m.get 1 = 0x00000000 →
    exec (.gg 0) s = .next { s with work := ⟨0x374943a7, 0x1c7d7513, 0xd6819c6a, 0x5aa53f75⟩ }

/-- R113: `HH i` completes in every state, and its whole effect; the rule's worked example. -/
def Obligations.RoundHHReplacesOneWorkingWord : Prop :=
  (∀ (j : BitVec 4) (s : State), exec (.hh j) s = .next { s with
    work := ⟨s.work.d,
      s.work.b + rotl32 (s.work.a + (s.work.b ^^^ s.work.c ^^^ s.work.d)
        + s.m.get (Fin.ofNat 16 (3 * (32 + j.toNat) + 5)) + kGroup2.getD j.toNat 0)
        ([4, 11, 16, 23].getD (j.toNat % 4) 0),
      s.work.b, s.work.c⟩ }) ∧
  ∀ s : State, s.work = ⟨0x13707036, 0xa2205f1f, 0x1c31c384, 0xae7813db⟩ → s.m.get 5 = 0x00000000 →
    exec (.hh 0) s = .next { s with work := ⟨0xae7813db, 0xdf63eaa1, 0xa2205f1f, 0x1c31c384⟩ }

/-- R114: `II i` completes in every state, and its whole effect; the rule's worked example. -/
def Obligations.RoundIIReplacesOneWorkingWord : Prop :=
  (∀ (j : BitVec 4) (s : State), exec (.ii j) s = .next { s with
    work := ⟨s.work.d,
      s.work.b + rotl32 (s.work.a + (s.work.c ^^^ (s.work.b ||| ~~~s.work.d))
        + s.m.get (Fin.ofNat 16 (7 * (48 + j.toNat))) + kGroup3.getD j.toNat 0)
        ([6, 10, 15, 21].getD (j.toNat % 4) 0),
      s.work.b, s.work.c⟩ }) ∧
  ∀ s : State, s.work = ⟨0x3f55edfd, 0xca7d2dbd, 0x68d84ea2, 0x22a31f54⟩ → s.m.get 0 = 0x00000080 →
    exec (.ii 0) s = .next { s with work := ⟨0x22a31f54, 0x93aa2577, 0xca7d2dbd, 0x68d84ea2⟩ }

/-- R115 and the round microprogram (P7): from any state, opening a `TRANSFORM(h, m)` and taking 64 steps
runs the rounds 0 to 63 and closes it; the working words it leaves, added to `h`, are `transform h m`, and
nothing else in the state has changed. That rounds can be taken as steps, from a state placed inside a
`TRANSFORM`, is the model's choice (log 3). -/
def Obligations.SixtyFourRoundStepsComputeTransform : Prop :=
  ∀ (s : State) (h : Digest) (m : Block), ∃ w : Working,
    Host.Core.run Sys2Proof.core 64 (s.startTransform h m) =
      .next { s with work := w, m := m, round := none } ∧
    transform h m = ⟨h.h0 + w.a, h.h1 + w.b, h.h2 + w.c, h.h3 + w.d⟩

/-- R117, spec/95_test_vectors.md 2.4: the whole-block results W1 to W8 of `TRANSFORM`, the blocks those of 2.2,
and the two-block result of `COMPRESS`. -/
def Obligations.TransformKnownBlocks : Prop :=
  transform Digest.init (loadBlock (0x80 :: List.replicate 63 0)) =
    ⟨0xd98c1dd4, 0x04b2008f, 0x980980e9, 0x7e42f8ec⟩ ∧
  transform Digest.init (loadBlock ([0x61, 0x62, 0x63, 0x80] ++ List.replicate 52 0 ++
    [0x18, 0, 0, 0, 0, 0, 0, 0])) = ⟨0x98500190, 0xb04fd23c, 0x7d3f96d6, 0x727fe128⟩ ∧
  transform Digest.init #v[0x20656854, 0x63697571, 0x7262206b, 0x206e776f, 0x20786f66, 0x706d756a,
    0x766f2073, 0x74207265, 0x6c206568, 0x20797a61, 0x80676f64, 0, 0, 0, 0x00000158, 0] =
    ⟨0x9d7d109e, 0x82b62b37, 0x351dd86b, 0xd619a442⟩ ∧
  transform Digest.init (loadBlock (List.replicate 64 0x61)) =
    ⟨0x89d4ff56, 0x125cd962, 0x69cade33, 0x0033e325⟩ ∧
  transform Digest.init (Vector.replicate 16 0) =
    ⟨0x031f1dac, 0x6ea58ed0, 0x1fab67b7, 0x74317791⟩ ∧
  transform ⟨0, 0, 0, 0⟩ (loadBlock (List.replicate 64 0)) =
    ⟨0xf7cd1c97, 0xa5483681, 0x2b68d832, 0xf90ca639⟩ ∧
  transform ⟨0xffffffff, 0xffffffff, 0xffffffff, 0xffffffff⟩ (loadBlock (List.replicate 64 0xff)) =
    ⟨0x6cba9129, 0x29ffd12a, 0x8b9bb7d3, 0xa9a0a3c1⟩ ∧
  transform Digest.init (loadBlock ((List.range 64).map (BitVec.ofNat 8))) =
    ⟨0x9144d9ca, 0xd901e4c9, 0x72fc5b38, 0x625ff51e⟩ ∧
  compressBlocks Digest.init (List.replicate 128 0x61) 2 =
    ⟨0xe01b99d7, 0xa1e609c6, 0xfed21dea, 0xbe6b6b4f⟩

/-! ### The Compressor -/

/-- R130, R43: word `k` of a block is bytes `4k` to `4k+3`, little-endian, from payload bytes and, as
`MemRead(4k, 4)`, from the carry buffer; the rule's worked example. -/
def Obligations.LoadBlockIsLittleEndian : Prop :=
  (∀ (blk : List Byte) (k : Fin 16), blk.length = 64 →
    ((loadBlock blk).get k).toNat = (blk.getD (4 * k.val) 0).toNat
      + 2 ^ 8 * (blk.getD (4 * k.val + 1) 0).toNat + 2 ^ 16 * (blk.getD (4 * k.val + 2) 0).toNat
      + 2 ^ 24 * (blk.getD (4 * k.val + 3) 0).toNat) ∧
  (∀ (mem : Memory) (k : Fin 16),
    ((loadBlock (mem.bytes 64)).get k).toNat = mem.readLE (4 * k.val) 4) ∧
  loadBlock ([0x61, 0x62, 0x63, 0x80] ++ List.replicate 52 0 ++ [0x18, 0, 0, 0, 0, 0, 0, 0]) =
    ((Vector.replicate 16 0).set 0 0x80636261).set 14 0x00000018

/-- R132, R54: no block leaves `H` alone; bytes beyond `64 * count` are not read; blocks are taken in order
with no gap and no overlap, each on the state the one before returned; the rule's worked example. That with no
block the working words and the block words stay as found too is the model's choice (log 20). -/
def Obligations.CompressFoldsBlocksInOrder : Prop :=
  (∀ (src : List Byte) (s : State), compress src 0 s = s) ∧
  (∀ (h : Digest) (src more : List Byte) (q : Nat), 64 * q ≤ src.length →
    compressBlocks h (src ++ more) q = compressBlocks h src q) ∧
  (∀ (h : Digest) (src : List Byte) (p q : Nat),
    compressBlocks h src (p + q) = compressBlocks (compressBlocks h src p) (src.drop (64 * p)) q) ∧
  (∀ (h : Digest) (blk : List Byte), compressBlocks h blk 1 = transform h (loadBlock (blk.take 64))) ∧
  compressBlocks Digest.init ([0x61, 0x62, 0x63, 0x80] ++ List.replicate 52 0 ++
    [0x18, 0, 0, 0, 0, 0, 0, 0]) 1 = ⟨0x98500190, 0xb04fd23c, 0x7d3f96d6, 0x727fe128⟩

/-! ### FEED -/

/-- R141, R142, R146, R147: `FEED` completes within the session bound, and everything it leaves. The blocks
compressed are the successive 64-byte pieces of the buffered bytes and the payload; the rest stays buffered; the
streams are as before. Two clauses are the model's choice: the sequencer is as before (log 3), and with no block
complete the engine's temporaries are too (log 20; U7 lets them be any value). -/
def Obligations.FeedCompletesAndKeepsItsInvariants : Prop :=
  ∀ (data : List Byte) (s : State), StateInv s → s.len.toNat + data.length ≤ maxTotalBytes →
    ∃ t, exec (.feed data) s = .next t ∧
      t.buflen.toNat < 64 ∧ t.buflen.toNat = t.len.toNat % 64 ∧ t.buf.wf = true ∧
      t.len.toNat = s.len.toNat + data.length ∧
      t.buflen.toNat = (s.buflen.toNat + data.length) % 64 ∧
      t.h = compressBlocks s.h (s.buffered ++ data) ((s.buflen.toNat + data.length) / 64) ∧
      t.buffered = (s.buffered ++ data).drop (64 * ((s.buflen.toNat + data.length) / 64)) ∧
      t.round = s.round ∧ t.cs = s.cs ∧ t.cpos = s.cpos ∧ t.resp = s.resp ∧
      (s.buflen.toNat + data.length < 64 → t.h = s.h ∧ t.work = s.work ∧ t.m = s.m)

/-- R41, R143, R145: the bytes `FEED` stores. Every address outside them reads as before; the remainder's
bytes lie at 0 on (the payload's last bytes), and the top-up's bytes from `BUFLEN` on, where the remainder
has not overwritten them. -/
def Obligations.FeedStoresOnlyItsBytes : Prop :=
  ∀ (data : List Byte) (s t : State), StateInv s → exec (.feed data) s = .next t → ∀ a : Nat,
    (feedStoresAt data.length s a = false → t.buf.read a = s.buf.read a) ∧
    (a < (data.length - topUpCount data.length s) % 64 →
      t.buf.read a = data.getD (data.length - (data.length - topUpCount data.length s) % 64 + a) 0) ∧
    ((data.length - topUpCount data.length s) % 64 ≤ a → s.buflen.toNat ≤ a →
      a < s.buflen.toNat + topUpCount data.length s →
      t.buf.read a = data.getD (a - s.buflen.toNat) 0)

/-- R148 (a) to (e) and (g): the corner cases of `FEED`. -/
def Obligations.FeedCornerCases : Prop :=
  (∀ s : State, StateInv s → exec (.feed []) s = .next s) ∧
  (∀ (data : List Byte) (s t : State), StateInv s → exec (.feed data) s = .next t →
    (s.buflen.toNat ≠ 0 → s.buflen.toNat + data.length < 64 →
      t.h = s.h ∧ t.buffered = s.buffered ++ data) ∧
    (s.buflen.toNat ≠ 0 → s.buflen.toNat + data.length = 64 →
      t.h = transform s.h (loadBlock (s.buffered ++ data)) ∧ t.buflen = 0) ∧
    (s.buflen.toNat = 0 → data.length % 64 = 0 →
      t.h = compressBlocks s.h data (data.length / 64) ∧ t.buflen = 0 ∧ t.buf = s.buf) ∧
    (s.buflen.toNat = 0 → data.length < 64 → t.h = s.h ∧ t.buffered = data)) ∧
  (∀ (before data : List Byte) (s t u v : State), StateInv s →
    (exec .reset s = .next t ∨ exec (.finalize before) s = .next t) →
    exec (.feed data) t = .next u → exec (.feed data) State.reset = .next v → u.session = v.session)

/-- R149: chunking invariance. After any `FEED` commands following a reset, the session is a function of the
concatenated message alone, and a `FINALIZE` then answers as one `EVAL` of the whole message does. -/
def Obligations.ChunkingInvariance : Prop :=
  ∀ (chunks : List (List Byte)) (s : State), s.buf.wf = true → s.session = Session.initial →
    chunks.flatten.length ≤ maxTotalBytes →
    ∃ t, runInstrs (chunks.map .feed) s = .next t ∧
      t.len.toNat = chunks.flatten.length ∧
      t.buflen.toNat = chunks.flatten.length % 64 ∧
      t.buffered = chunks.flatten.drop (64 * (chunks.flatten.length / 64)) ∧
      t.h = compressBlocks Digest.init chunks.flatten (chunks.flatten.length / 64) ∧
      ∀ last : List Byte, (chunks.flatten ++ last).length ≤ maxTotalBytes →
        ∃ u v, runInstrs (chunks.map .feed ++ [.finalize last]) s = .next u ∧
          runInstrs (expandEval (chunks.flatten ++ last)) s = .next v ∧ u.resp = v.resp

/-- R77, R225: a payload of length zero is legal wherever `LEN` is within the bound, and a complete frame
whose payload would take `LEN` past the bound is refused by the step. -/
def Obligations.SessionBoundIsEnforced : Prop :=
  (∀ s : State, StateInv s → (∃ t, exec (.feed []) s = .next t) ∧ ∃ t, exec (.finalize []) s = .next t) ∧
  (∀ (data : List Byte) (n : Nat) (s : State), idle s →
    (decodeFrame s.cs = .command (.feed data) n ∨ decodeFrame s.cs = .command (.finalize data) n) →
    maxTotalBytes < s.len.toNat + data.length → step s = .refused .lengthBound)

/-! ### FINALIZE -/

/-- R161: `pad_len` is the one number from 1 to 64 that brings the length to 56 modulo 64; it is 64 exactly
when `rem` is 56. -/
def Obligations.PadLengthIsTheLeastThatFits : Prop :=
  ∀ total p : Nat, 1 ≤ p → p ≤ 64 →
    (((total + p) % 64 = 56 ↔ p = padLen (total % 64)) ∧ 1 ≤ padLen (total % 64) ∧
      padLen (total % 64) ≤ 64 ∧ (padLen (total % 64) = 64 ↔ total % 64 = 56))

/-- R162, R163: the padding is `0x80`, `pad_len - 1` zeros and the bit length in eight little-endian bytes,
exact within the session bound; with the buffered bytes it makes one block or two. -/
def Obligations.PaddingAndTailShape : Prop :=
  (∀ total : BitVec 64, total.toNat ≤ maxTotalBytes →
    pad total = 0x80 :: (List.replicate (padLen (total.toNat % 64) - 1) 0 ++
      (pad total).drop (padLen (total.toNat % 64))) ∧
    (pad total).length = padLen (total.toNat % 64) + 8 ∧ 9 ≤ (pad total).length ∧
    (pad total).length ≤ 72 ∧
    leNat ((pad total).drop (padLen (total.toNat % 64))) = total.toNat * 8) ∧
  (∀ s : State, (tailOf s).length = if s.len.toNat % 64 < 56 then 64 else 128)

/-- R164, R165: the 32 characters in the rule's order, each the ASCII code of a lowercase hexadecimal digit; the
rule's worked example. -/
def Obligations.HexRenderSpellsTheDigest : Prop :=
  (∀ n : BitVec 4, (hexdigit n).toNat = if n.toNat ≤ 9 then 0x30 + n.toNat else 0x61 + (n.toNat - 10)) ∧
  (∀ h1 h2 h3 : Word, (ByteExpr.text "d41d8cd9".toList).bytes =
    some ((hexRender ⟨0xd98c1dd4, h1, h2, h3⟩).take 8)) ∧
  ∀ h : Digest, (hexRender h).length = 32 ∧
    (∀ w j : Fin 4,
      (hexRender h)[8 * w.val + 2 * j.val]? =
        some (hexdigit ((([h.h0, h.h1, h.h2, h.h3].getD w.val 0).extractLsb' (8 * j.val + 4) 4))) ∧
      (hexRender h)[8 * w.val + 2 * j.val + 1]? =
        some (hexdigit ((([h.h0, h.h1, h.h2, h.h3].getD w.val 0).extractLsb' (8 * j.val) 4)))) ∧
    ∀ c ∈ hexRender h, (0x30 ≤ c.toNat ∧ c.toNat ≤ 0x39) ∨ (0x61 ≤ c.toNat ∧ c.toNat ≤ 0x66)

/-- R168: `FINALIZE` completes within the session bound: the digest of what was fed is emitted, the session
is reset, `BUF` is as the feed step leaves it, the command stream is as before; past the bound it is refused; the
rule's worked example. The clause that the sequencer is as before is the model's choice (log 3). -/
def Obligations.FinalizeEmitsTheDigestAndResets : Prop :=
  (∀ (data : List Byte) (s : State), StateInv s → s.len.toNat + data.length ≤ maxTotalBytes →
    ∃ t, exec (.finalize data) s = .next t ∧
      t.resp = s.resp ++ hexRender (compressBlocks s.h
        (s.buffered ++ data ++ pad (s.len + BitVec.ofNat 64 data.length))
        ((s.buflen.toNat + data.length + padLen ((s.len.toNat + data.length) % 64) + 8) / 64)) ∧
      t.h = Digest.init ∧ t.len = 0 ∧ t.buflen = 0 ∧
      (∃ u, exec (.feed data) s = .next u ∧ t.buf = u.buf) ∧
      t.round = s.round ∧ t.cs = s.cs ∧ t.cpos = s.cpos) ∧
  (∀ (data : List Byte) (s : State), maxTotalBytes < s.len.toNat + data.length →
    exec (.finalize data) s = .refused .lengthBound) ∧
  ∃ t, exec (.finalize []) State.reset = .next t ∧
    (ByteExpr.text "d41d8cd98f00b204e9800998ecf8427e".toList).bytes = some t.resp

/-- R160: `FINALIZE(data)` is `FEED(data)` followed at once by the padding and rendering step. -/
def Obligations.FinalizeIsFeedThenFinalizeOfNothing : Prop :=
  ∀ (data : List Byte) (s u : State), exec (.feed data) s = .next u →
    exec (.finalize data) s = exec (.finalize []) u

/-- R76: of all instructions only `FINALIZE` answers, with exactly 32 bytes, each the ASCII code of a lowercase hexadecimal
digit, and nothing of the answer is kept in the session. -/
def Obligations.ResponsesAreThirtyTwoHexDigits : Prop :=
  (∀ (i : Instr) (s t : State), (∀ data, i ≠ .finalize data) → exec i s = .next t → t.resp = s.resp) ∧
  (∀ (data : List Byte) (s t : State), exec (.finalize data) s = .next t →
    t.session = Session.initial ∧ ∃ out : List Byte, t.resp = s.resp ++ out ∧ out.length = 32 ∧
      ∀ c ∈ out, (0x30 ≤ c.toNat ∧ c.toNat ≤ 0x39) ∨ (0x61 ≤ c.toNat ∧ c.toNat ≤ 0x66))

/-- R171: what the whole computes, for any split of a message into commands. -/
def Obligations.DigestOfAnySplitMessage : Prop :=
  ∀ (chunks : List (List Byte)) (last : List Byte) (s : State), s.buf.wf = true →
    s.session = Session.initial → (chunks.flatten ++ last).length ≤ maxTotalBytes →
    ∃ t, runInstrs (chunks.map .feed ++ [.finalize last]) s = .next t ∧
      t.resp = s.resp ++ digestOf (chunks.flatten ++ last)

/-- R170: after a `FINALIZE` the core is as good as new: the session is that of the reset state, and any
instructions that run from the reset state run from here, to the same session and with the same answers. -/
def Obligations.FinalizeLeavesTheCoreAsNew : Prop :=
  ∀ (data : List Byte) (s t : State), StateInv s → exec (.finalize data) s = .next t →
    t.session = State.reset.session ∧
    ∀ (cmds : List Instr) (v : State), runInstrs cmds State.reset = .next v →
      ∃ u, runInstrs cmds t = .next u ∧ u.session = v.session ∧ u.resp = t.resp ++ v.resp

/-- R173: `EVAL` answers the digest of its bytes alone, whatever session was open; from the reset state its
`RESET` may be left out; and the source's three known results. -/
def Obligations.EvalIgnoresTheSessionBefore : Prop :=
  (∀ (data : List Byte) (s : State), s.buf.wf = true → data.length ≤ maxTotalBytes →
    ∃ t, runInstrs (expandEval data) s = .next t ∧ t.resp = s.resp ++ digestOf data) ∧
  (∀ (data : List Byte) (s : State), s.buf.wf = true → s.session = Session.initial →
    data.length ≤ maxTotalBytes →
    ∃ t, exec (.finalize data) s = .next t ∧ t.resp = s.resp ++ digestOf data) ∧
  (ByteExpr.text "d41d8cd98f00b204e9800998ecf8427e".toList).bytes = some (digestOf []) ∧
  (ByteExpr.text "abc".toList).bytes.map digestOf =
    (ByteExpr.text "900150983cd24fb0d6963f7d28e17f72".toList).bytes ∧
  (ByteExpr.text "The quick brown fox jumps over the lazy dog".toList).bytes.map digestOf =
    (ByteExpr.text "9e107d9d372bb6826bd81d3542a419d6".toList).bytes

/-- R174: `FINALIZE_OUT` adds exactly 32 hexadecimal characters to the end of the host's buffer and leaves what
was there untouched; the view is those 32 characters and nothing else. -/
def Obligations.FinalizeOutAppendsThirtyTwo : Prop :=
  ∀ (data out : List Byte) (s t : State),
    expandFinalizeOut data = [.finalize data] ∧
    (exec (.finalize data) s = .next t →
      (finalizeOut out (t.resp.drop s.resp.length)).1.length = out.length + 32 ∧
      (finalizeOut out (t.resp.drop s.resp.length)).1.take out.length = out ∧
      (finalizeOut out (t.resp.drop s.resp.length)).1.drop out.length =
        (finalizeOut out (t.resp.drop s.resp.length)).2 ∧
      t.resp = s.resp ++ (finalizeOut out (t.resp.drop s.resp.length)).2 ∧
      (finalizeOut out (t.resp.drop s.resp.length)).2.length = 32 ∧
      ∀ c ∈ (finalizeOut out (t.resp.drop s.resp.length)).2,
        (0x30 ≤ c.toNat ∧ c.toNat ≤ 0x39) ∨ (0x61 ≤ c.toNat ∧ c.toNat ≤ 0x66))

/-! ### Encoding -/

/-- R70 to R75, R80, R81: decoding an encoding gives the instruction back, with every operand; a frame is
read off the front of any stream that starts with it. -/
def Obligations.DecodeInvertsEncode : Prop :=
  ∀ i : Instr, wellFormed i = true → decode (encode i) = some i ∧
    ∀ bytes rest : List Byte, encode i = .frame bytes →
      decodeFrame (bytes ++ rest) = .command i bytes.length

/-- R75, R82: a frame that decodes takes at least one byte and no more than there are, is told from its own
bytes alone, and is the encoding of the command it gives. -/
def Obligations.FramesAreReadFromTheirOwnBytes : Prop :=
  ∀ (cs : List Byte) (i : Instr) (n : Nat), decodeFrame cs = .command i n →
    0 < n ∧ n ≤ cs.length ∧ (∀ more : List Byte, decodeFrame (cs.take n ++ more) = .command i n) ∧
    encode i = .frame (cs.take n)

/-- spec/95_test_vectors.md 2.9 and R81: words of the spec and what they stand for. -/
def Obligations.SpecWordsDecode : Prop :=
  decodeFrame [0x00] = .command .reset 1 ∧
  decodeFrame [0x01, 3, 0, 0, 0, 0, 0, 0, 0, 0x61, 0x62, 0x63] =
    .command (.feed [0x61, 0x62, 0x63]) 12 ∧
  decodeFrame [0x02, 0, 0, 0, 0, 0, 0, 0, 0] = .command (.finalize []) 9 ∧
  decodeFrame [0x01, 3, 0, 0, 0, 0, 0, 0, 0, 0x61, 0x62] = .incomplete ∧
  decodeFrame [0xff, 0, 0] = .reservedOpcode 0xff ∧
  decodeRound 0b001111 = .ff 15 ∧ decodeRound 0b010000 = .gg 0 ∧
  decodeRound 0b101111 = .hh 15 ∧ decodeRound 0b110001 = .ii 1

/-! ### The step -/

/-- R75, R20: a step runs the instruction the decoder reads and moves past it: a frame's bytes are consumed,
or the sequencer goes to the next round (and closes the `TRANSFORM` after round 63). -/
def Obligations.StepRunsTheDecodedInstruction : Prop :=
  (∀ (s : State) (i : Instr) (n : Nat), s.round = none → decodeFrame s.cs = .command i n →
    (∀ t, exec i s = .next t →
      step s = .next { t with cs := t.cs.drop n, cpos := t.cpos + n }) ∧
    (∀ r, exec i s = .fault r → step s = .fault r) ∧
    (∀ r, exec i s = .refused r → step s = .refused r)) ∧
  (∀ (s : State) (i : RIdx), s.round = some i →
    ∃ t, exec (decodeRound i) s = .next t ∧
      step s = .next { t with round := if i = 63 then none else some (i + 1) })

/-- R78: a frame that starts with 0x03 to 0xFF is refused by name, whatever follows it, and no other
opcode is. -/
def Obligations.ReservedOpcodesAreRefused : Prop :=
  ∀ (s : State) (op : Byte) (rest : List Byte), idle s → s.cs = op :: rest →
    (step s = .refused (.reservedOpcode op) ↔ 3 ≤ op.toNat) ∧
    (3 ≤ op.toNat → ∀ more : List Byte, step (hostSend more s) = .refused (.reservedOpcode op))

/-- R79: until the last byte of a frame is present the step changes nothing; then the whole command runs at
once, whatever comes after it. That waiting is a step which keeps the state is the model's choice (log 6). -/
def Obligations.IncompleteFramesWait : Prop :=
  ∀ (s : State) (i : Instr) (bytes : List Byte), idle s → wellFormed i = true →
    encode i = .frame bytes →
    (∀ k, k < bytes.length → s.cs = bytes.take k → step s = .next s) ∧
    (∀ rest t, s.cs = bytes ++ rest → exec i s = .next t →
      step s = .next { t with cs := rest, cpos := s.cpos + bytes.length })

/-- R195: opcode first, then completeness, then the length bound. -/
def Obligations.DecoderChecksInOrder : Prop :=
  ∀ (s : State) (op : Byte) (field rest : List Byte), idle s → s.cs = op :: (field ++ rest) →
    field.length = 8 →
    (3 ≤ op.toNat → step s = .refused (.reservedOpcode op)) ∧
    (op = 0x01 ∨ op = 0x02 → rest.length < leNat field → step s = .next s) ∧
    (op = 0x01 ∨ op = 0x02 → leNat field ≤ rest.length →
      maxTotalBytes < s.len.toNat + leNat field → step s = .refused .lengthBound)

/-- R13, R41, R193: every step keeps the invariant. -/
def Obligations.StepKeepsTheInvariant : Prop :=
  ∀ s t : State, StateInv s → step s = .next t → StateInv t

/-- R47, R52: no step opens a `TRANSFORM`: from a state between commands every step leads to a state between
commands, so no state between the rounds of one command is ever seen. -/
def Obligations.StepsNeverStopInsideACommand : Prop :=
  ∀ (k : Nat) (s t : State), idle s → Host.Core.run Sys2Proof.core k s = .next t → idle t

/-- R190, R191: in states that meet the invariant no step faults, and the only refusals are the decoder's two
verdicts, each for its cause. -/
def Obligations.OnlyTheTwoVerdictsStopAStep : Prop :=
  ∀ s : State, StateInv s → (∀ r, step s ≠ .fault r) ∧
    ∀ r, step s = .refused r →
      (∃ op rest, s.cs = op :: rest ∧ 3 ≤ op.toNat ∧ r = .reservedOpcode op) ∨
      (∃ data n, (decodeFrame s.cs = .command (.feed data) n ∨
          decodeFrame s.cs = .command (.finalize data) n) ∧
        maxTotalBytes < s.len.toNat + data.length ∧ r = .lengthBound)

/-- R51: a step adds nothing or one whole response at the back of the response stream, and takes bytes only
off the front of the command stream. -/
def Obligations.StreamsMoveInOrder : Prop :=
  ∀ s t : State, step s = .next t →
    (t.resp = s.resp ∨ ∃ out : List Byte, out.length = 32 ∧ t.resp = s.resp ++ out) ∧
    ∃ n, n ≤ s.cs.length ∧ t.cs = s.cs.drop n ∧ t.cpos = s.cpos + n

/-- R10: the only writers of the digest state are `RESET`, the reset that ends `FINALIZE`, and `COMPRESS`
in a `FEED` that completes a block. -/
def Obligations.OnlyItsWritersChangeTheDigestState : Prop :=
  ∀ s t : State, step s = .next t → t.h ≠ s.h →
    (∃ n, fetch s = .frame .reset n ∧ t.h = Digest.init) ∨
    (∃ data n, fetch s = .frame (.finalize data) n ∧ t.h = Digest.init) ∨
    (∃ data n, fetch s = .frame (.feed data) n ∧ 64 ≤ s.buflen.toNat + data.length)

/-- R50: no command reads a byte of `BUF` that was not written since the last reset: two states that differ
only above the fill (and in what is not the session) answer alike. The choice of log 1 is never seen. -/
def Obligations.BytesAboveTheFillNeverMatter : Prop :=
  ∀ (i : Instr) (s s' t : State), StateInv s → StateInv s' → s.session = s'.session → exec i s = .next t →
    ∃ t' out, exec i s' = .next t' ∧ t.session = t'.session ∧
      t.resp = s.resp ++ out ∧ t'.resp = s'.resp ++ out

/-- R228, R229: every run ends: within as many steps as there are bytes waiting, either every complete frame
has been executed or a frame is refused. -/
def Obligations.EveryRunSettlesOrIsRefused : Prop :=
  ∀ s : State, StateInv s → idle s → ∃ k, k ≤ s.cs.length ∧
    ((∃ t, Host.Core.run Sys2Proof.core k s = .next t ∧ settled t) ∨
      ∃ r, Host.Core.run Sys2Proof.core k s = .refused r)

/-- R197: after a length refusal the host may go on with any command: passing the refused frame changes only
the position in the stream, and whatever command stands behind it is the one the next step runs, with that
command's own outcome; a `RESET` there completes. That the refused frame is consumed is the model's reading
(log 9), and so is that the refusal and that `RESET` leave the temporaries as found (log 20). -/
def Obligations.HostGoesOnAfterALengthRefusal : Prop :=
  ∀ (s : State) (n : Nat) (data : List Byte), idle s →
    (decodeFrame s.cs = .command (.feed data) n ∨ decodeFrame s.cs = .command (.finalize data) n) →
    step s = .refused .lengthBound →
    skipRefusedFrame s = { s with cs := s.cs.drop n, cpos := s.cpos + n } ∧
    (∀ (i : Instr) (k : Nat), decodeFrame (s.cs.drop n) = .command i k →
      (∀ t, exec i (skipRefusedFrame s) = .next t →
        step (skipRefusedFrame s) = .next { t with cs := t.cs.drop k, cpos := t.cpos + k }) ∧
      (∀ r, exec i (skipRefusedFrame s) = .fault r → step (skipRefusedFrame s) = .fault r) ∧
      ∀ r, exec i (skipRefusedFrame s) = .refused r → step (skipRefusedFrame s) = .refused r) ∧
    ∀ rest, s.cs.drop n = 0x00 :: rest → step (skipRefusedFrame s) =
      .next { s with h := Digest.init, len := 0, buflen := 0, cs := rest, cpos := s.cpos + n + 1 }

/-! ### Several cores -/

/-- R199: cores share nothing. A step of one leaves every other as it was, with what the other answers: its own
next state (the two steps come to the same whichever is first), its refusal or its fault. And under any
interleaving each core has come exactly as far as by its own steps alone; that a stopped core keeps its verdict
while the others go on is the model's reading (log 13). -/
def Obligations.CoresAreIndependent : Prop :=
  (∀ (i j : Nat) (sys a : System), i ≠ j → stepCore i sys = .next a →
    (∀ k, k ≠ i → a[k]? = sys[k]?) ∧ a.length = sys.length ∧
    (∀ b, stepCore j sys = .next b → ∃ c, stepCore j a = .next c ∧ stepCore i b = .next c) ∧
    (∀ r, stepCore j sys = .refused r → stepCore j a = .refused r) ∧
    ∀ r, stepCore j sys = .fault r → stepCore j a = .fault r) ∧
  ∀ (sched : List Nat) (sys : System) (k : Nat) (s : State), sys[k]? = some s →
    (runInterleaved sched (sys.map .next))[k]? =
      some (Host.Core.run Sys2Proof.core (sched.count k) s)
end

