-- ==== Sys2Proof/Laws/Bytes.lean ====
section
/-! SUPPORT. Byte order: what the little-endian helpers compute. -/

namespace Sys2Proof.Machine

@[simp] theorem leBytes_length {w : Nat} (v : BitVec w) (n : Nat) : (leBytes v n).length = n := by
  simp [leBytes]

/-- `LE32` as the sum of R5. -/
theorem le32_toNat (b0 b1 b2 b3 : Byte) :
    (le32 b0 b1 b2 b3).toNat = b0.toNat + 256 * (b1.toNat + 256 * (b2.toNat + 256 * b3.toNat)) := by
  have join : ∀ (u : Nat) (b : Byte), u <<< 8 ||| b.toNat = 2 ^ 8 * u + b.toNat := fun u b => by
    rw [Nat.shiftLeft_eq, Nat.mul_comm, Nat.two_pow_add_eq_or_of_lt b.isLt]
  simp only [le32, BitVec.toNat_append, join]
  omega

/-- Eight little-endian bytes of a 64-bit value give the value back (R44, R73). -/
theorem leNat_leBytes_64 (v : BitVec 64) : leNat (leBytes v 8) = v.toNat := by
  have h := v.isLt
  simp [leBytes, List.range_succ, leNat, byteOf, BitVec.extractLsb'_toNat]
  omega

/-- A word of a loaded block, by its number (R43, R130). -/
theorem loadBlock_get (blk : List Byte) (k : Fin 16) :
    (loadBlock blk).get k = le32 (blk.getD (4 * k.val) 0) (blk.getD (4 * k.val + 1) 0)
      (blk.getD (4 * k.val + 2) 0) (blk.getD (4 * k.val + 3) 0) := by
  have h : (loadBlock blk).get k = (loadBlock blk)[k.val] := rfl
  rw [h, loadBlock, Vector.getElem_ofFn]

@[simp] theorem hexRender_length (h : Digest) : (hexRender h).length = 32 := by
  simp [hexRender, digestBytes, hexByte, leBytes, List.range_succ]

end Sys2Proof.Machine
end

