-- ==== Sys2Proof/Laws/Decode.lean ====
section
/-! SUPPORT. The frame decoder's equations, one per opcode, and its inversion. -/

namespace Sys2Proof

open Sys2Proof.Machine

@[simp] theorem decodeFrame_nil : decodeFrame [] = .noFrame := rfl

theorem decodeFrame_reset (rest : List Byte) : decodeFrame (opcReset :: rest) = .command .reset 1 := by
  simp [decodeFrame]

theorem decodeFrame_feed (rest : List Byte) :
    decodeFrame (opcFeed :: rest) = decodePayload .feed rest := by
  have h : opcFeed ≠ opcReset := by decide
  simp [decodeFrame, h]

theorem decodeFrame_finalize (rest : List Byte) :
    decodeFrame (opcFinalize :: rest) = decodePayload .finalize rest := by
  have h : opcFinalize ≠ opcReset := by decide
  have h' : opcFinalize ≠ opcFeed := by decide
  simp [decodeFrame, h, h']

/-- The three opcodes are the byte values below 3 (R74). -/
theorem opcode_cases (op : Byte) :
    op = opcReset ∨ op = opcFeed ∨ op = opcFinalize ∨ (3 ≤ op.toNat ∧ op ≠ opcReset ∧ op ≠ opcFeed ∧
      op ≠ opcFinalize) := by
  revert op; decide

theorem decodeFrame_reserved {op : Byte} (rest : List Byte) (h : 3 ≤ op.toNat) :
    decodeFrame (op :: rest) = .reservedOpcode op := by
  obtain rfl | rfl | rfl | ⟨-, h0, h1, h2⟩ := opcode_cases op
  · exact absurd h (by decide)
  · exact absurd h (by decide)
  · exact absurd h (by decide)
  · simp [decodeFrame, h0, h1, h2]

/-- What a payload frame decodes to (R72, R75, R79). -/
theorem decodePayload_cases (mk : List Byte → Instr) (rest : List Byte) :
    (rest.length < 8 ∧ decodePayload mk rest = .incomplete) ∨
    (8 ≤ rest.length ∧ rest.length - 8 < leNat (rest.take 8) ∧ decodePayload mk rest = .incomplete) ∨
    (8 ≤ rest.length ∧ leNat (rest.take 8) ≤ rest.length - 8 ∧ decodePayload mk rest =
      .command (mk ((rest.drop 8).take (leNat (rest.take 8)))) (9 + leNat (rest.take 8))) := by
  by_cases h8 : rest.length < 8
  · exact .inl ⟨h8, by simp [decodePayload, h8]⟩
  · by_cases hn : rest.length - 8 < leNat (rest.take 8)
    · exact .inr (.inl ⟨by omega, hn, by simp [decodePayload, h8, hn]⟩)
    · exact .inr (.inr ⟨by omega, by omega, by simp [decodePayload, h8, hn]⟩)

/-- Every command a stream can start with. -/
theorem decodeFrame_command_cases {cs : List Byte} {i : Instr} {n : Nat}
    (h : decodeFrame cs = .command i n) :
    (∃ rest, cs = opcReset :: rest ∧ i = .reset ∧ n = 1) ∨
    ∃ op mk rest, cs = op :: rest ∧ ((op = opcFeed ∧ mk = Instr.feed) ∨
        (op = opcFinalize ∧ mk = Instr.finalize)) ∧ 8 ≤ rest.length ∧
      leNat (rest.take 8) ≤ rest.length - 8 ∧
      i = mk ((rest.drop 8).take (leNat (rest.take 8))) ∧ n = 9 + leNat (rest.take 8) := by
  cases cs with
  | nil => simp at h
  | cons op rest =>
    obtain rfl | rfl | rfl | ⟨h3, -⟩ := opcode_cases op
    · rw [decodeFrame_reset] at h
      simp only [FrameVerdict.command.injEq] at h
      exact .inl ⟨rest, rfl, h.1.symm, h.2.symm⟩
    · rw [decodeFrame_feed] at h
      obtain ⟨-, h'⟩ | ⟨-, -, h'⟩ | ⟨h8, hn, h'⟩ := decodePayload_cases .feed rest
      · simp [h'] at h
      · simp [h'] at h
      · simp only [h', FrameVerdict.command.injEq] at h
        exact .inr ⟨_, _, rest, rfl, .inl ⟨rfl, rfl⟩, h8, hn, h.1.symm, h.2.symm⟩
    · rw [decodeFrame_finalize] at h
      obtain ⟨-, h'⟩ | ⟨-, -, h'⟩ | ⟨h8, hn, h'⟩ := decodePayload_cases .finalize rest
      · simp [h'] at h
      · simp [h'] at h
      · simp only [h', FrameVerdict.command.injEq] at h
        exact .inr ⟨_, _, rest, rfl, .inr ⟨rfl, rfl⟩, h8, hn, h.1.symm, h.2.symm⟩
    · simp [decodeFrame_reserved rest h3] at h

end Sys2Proof
end

