-- ==== Sys2Proof/Laws/Memory.lean ====
section
/-! SUPPORT. The carry buffer's memory: read after write, and the canonical form is kept. -/

namespace Sys2Proof.Machine

@[simp] theorem Memory.read_nil (x : Nat) : Memory.read [] x = Config.unwrittenByte := rfl

@[simp] theorem Memory.read_cons (a : Nat) (b : Byte) (rest : Memory) (x : Nat) :
    Memory.read ((a, b) :: rest) x = if x = a then b else Memory.read rest x := rfl

/-- An address below every cell reads as unwritten. -/
theorem Memory.read_below {mem : Memory} {lo x : Nat} (hw : Memory.wfFrom lo mem = true) (hx : x < lo) :
    mem.read x = Config.unwrittenByte := by
  induction mem generalizing lo with
  | nil => rfl
  | cons cell rest ih =>
    obtain ⟨a, b⟩ := cell
    simp only [Memory.wfFrom, Bool.and_eq_true, decide_eq_true_eq] at hw
    have hne : x ≠ a := by omega
    rw [Memory.read_cons, if_neg hne]
    exact ih hw.2 (by omega)

/-- A write leaves every other address alone, whatever the form of the list. -/
theorem Memory.read_write_other (mem : Memory) {x y : Nat} (v : Byte) (hne : y ≠ x) :
    (mem.write x v).read y = mem.read y := by
  induction mem with
  | nil =>
    simp only [Memory.write]
    split <;> simp [hne]
  | cons cell rest ih =>
    obtain ⟨a, b⟩ := cell
    simp only [Memory.write]
    split
    · split <;> simp [hne]
    · split
      · next hxa =>
        subst hxa
        split <;> simp [hne]
      · simp [ih]

/-- A write is read back. -/
theorem Memory.read_write_same {mem : Memory} {lo x : Nat} (v : Byte)
    (hw : Memory.wfFrom lo mem = true) : (mem.write x v).read x = v := by
  induction mem generalizing lo with
  | nil =>
    simp only [Memory.write]
    split
    · next hv => exact hv.symm
    · simp
  | cons cell rest ih =>
    obtain ⟨a, b⟩ := cell
    simp only [Memory.wfFrom, Bool.and_eq_true, decide_eq_true_eq] at hw
    simp only [Memory.write]
    split
    · next hlt =>
      split
      · next hv =>
        have hne : x ≠ a := by omega
        rw [Memory.read_cons, if_neg hne, Memory.read_below hw.2 (by omega), hv]
      · simp
    · split
      · next hxa =>
        split
        · next hv => rw [Memory.read_below hw.2 (by omega), hv]
        · simp [hxa]
      · next hne => rw [Memory.read_cons, if_neg hne, ih hw.2]

/-- A canonical list from a later address on is one from an earlier address on. -/
theorem Memory.wfFrom_mono {mem : Memory} {lo lo' : Nat} (hle : lo ≤ lo')
    (hw : Memory.wfFrom lo' mem = true) : Memory.wfFrom lo mem = true := by
  cases mem with
  | nil => rfl
  | cons cell rest =>
    obtain ⟨a, b⟩ := cell
    simp only [Memory.wfFrom, Bool.and_eq_true, decide_eq_true_eq] at hw ⊢
    exact ⟨⟨⟨by omega, hw.1.1.2⟩, hw.1.2⟩, hw.2⟩

/-- A write to an address that exists keeps the canonical form. -/
theorem Memory.wfFrom_write {mem : Memory} {lo x : Nat} (v : Byte) (hw : Memory.wfFrom lo mem = true)
    (hlo : lo ≤ x) (hx : x < Config.bufCap) : Memory.wfFrom lo (mem.write x v) = true := by
  induction mem generalizing lo with
  | nil =>
    simp only [Memory.write]
    split
    · rfl
    · next hv => simp [Memory.wfFrom, hlo, hx, hv]
  | cons cell rest ih =>
    obtain ⟨a, b⟩ := cell
    have hall := hw
    simp only [Memory.wfFrom, Bool.and_eq_true, decide_eq_true_eq] at hw
    simp only [Memory.write]
    split
    · split
      · exact hall
      · next hlt hv =>
        simp only [Memory.wfFrom, Bool.and_eq_true, decide_eq_true_eq]
        exact ⟨⟨⟨hlo, hx⟩, hv⟩, ⟨⟨by omega, hw.1.1.2⟩, hw.1.2⟩, hw.2⟩
    · split
      · split
        · exact Memory.wfFrom_mono (by omega) hw.2
        · next hv =>
          simp only [Memory.wfFrom, Bool.and_eq_true, decide_eq_true_eq]
          exact ⟨⟨⟨hw.1.1.1, hw.1.1.2⟩, hv⟩, hw.2⟩
      · simp only [Memory.wfFrom, Bool.and_eq_true, decide_eq_true_eq]
        exact ⟨hw.1, ih hw.2 (by omega)⟩

/-- Every memory operation keeps the canonical form: the write is the only one that changes memory. -/
theorem Memory.wf_write {mem : Memory} {x : Nat} (v : Byte) (hw : mem.wf = true) (hx : x < Config.bufCap) :
    (mem.write x v).wf = true :=
  Memory.wfFrom_write v hw (Nat.zero_le x) hx

@[simp] theorem Memory.bytes_length (mem : Memory) (n : Nat) : (mem.bytes n).length = n := by
  simp [Memory.bytes]

theorem Memory.bytes_getElem (mem : Memory) (n j : Nat) (hj : j < n) :
    (mem.bytes n)[j]? = some (mem.read j) := by
  simp [Memory.bytes, hj]

/-- `BUF[0..n)` is a matter of its reads. -/
theorem Memory.bytes_congr {mem mem' : Memory} {n : Nat} (h : ∀ j, j < n → mem.read j = mem'.read j) :
    mem.bytes n = mem'.bytes n := by
  simp only [Memory.bytes, List.map_inj_left, List.mem_range]
  exact h

theorem Memory.bytes_succ (mem : Memory) (n : Nat) : mem.bytes (n + 1) = mem.bytes n ++ [mem.read n] := by
  simp [Memory.bytes, List.range_succ]

@[simp] theorem Memory.bytes_zero (mem : Memory) : mem.bytes 0 = [] := rfl

/-- Reset memory lists nothing, which is canonical. -/
theorem Memory.wf_reset : State.reset.buf.wf = true := rfl

end Sys2Proof.Machine
end

