-- ==== Sys2Proof/Laws/State.lean ====
section
/-! SUPPORT. One lemma per field per update of State: what the update writes, and that it leaves the other
fields alone. All true by rfl. -/

namespace Sys2Proof.Machine

variable (s : State)

@[simp] theorem State.appendByte_h (b : Byte) : (s.appendByte b).h = s.h := rfl
@[simp] theorem State.appendByte_len (b : Byte) : (s.appendByte b).len = s.len := rfl
@[simp] theorem State.appendByte_buf (b : Byte) : (s.appendByte b).buf = s.buf.write s.buflen.toNat b := rfl
@[simp] theorem State.appendByte_buflen (b : Byte) : (s.appendByte b).buflen = s.buflen + 1 := rfl
@[simp] theorem State.appendByte_work (b : Byte) : (s.appendByte b).work = s.work := rfl
@[simp] theorem State.appendByte_m (b : Byte) : (s.appendByte b).m = s.m := rfl
@[simp] theorem State.appendByte_round (b : Byte) : (s.appendByte b).round = s.round := rfl
@[simp] theorem State.appendByte_cs (b : Byte) : (s.appendByte b).cs = s.cs := rfl
@[simp] theorem State.appendByte_cpos (b : Byte) : (s.appendByte b).cpos = s.cpos := rfl
@[simp] theorem State.appendByte_resp (b : Byte) : (s.appendByte b).resp = s.resp := rfl
@[simp] theorem State.appendByte_free (b : Byte) : (s.appendByte b).free = s.free := rfl

@[simp] theorem State.emptyCarry_h : s.emptyCarry.h = s.h := rfl
@[simp] theorem State.emptyCarry_len : s.emptyCarry.len = s.len := rfl
@[simp] theorem State.emptyCarry_buf : s.emptyCarry.buf = s.buf := rfl
@[simp] theorem State.emptyCarry_buflen : s.emptyCarry.buflen = 0 := rfl
@[simp] theorem State.emptyCarry_work : s.emptyCarry.work = s.work := rfl
@[simp] theorem State.emptyCarry_m : s.emptyCarry.m = s.m := rfl
@[simp] theorem State.emptyCarry_round : s.emptyCarry.round = s.round := rfl
@[simp] theorem State.emptyCarry_cs : s.emptyCarry.cs = s.cs := rfl
@[simp] theorem State.emptyCarry_cpos : s.emptyCarry.cpos = s.cpos := rfl
@[simp] theorem State.emptyCarry_resp : s.emptyCarry.resp = s.resp := rfl
@[simp] theorem State.emptyCarry_free : s.emptyCarry.free = s.free := rfl

@[simp] theorem State.addLen_h (n : Nat) : (s.addLen n).h = s.h := rfl
@[simp] theorem State.addLen_len (n : Nat) : (s.addLen n).len = s.len + BitVec.ofNat 64 n := rfl
@[simp] theorem State.addLen_buf (n : Nat) : (s.addLen n).buf = s.buf := rfl
@[simp] theorem State.addLen_buflen (n : Nat) : (s.addLen n).buflen = s.buflen := rfl
@[simp] theorem State.addLen_work (n : Nat) : (s.addLen n).work = s.work := rfl
@[simp] theorem State.addLen_m (n : Nat) : (s.addLen n).m = s.m := rfl
@[simp] theorem State.addLen_round (n : Nat) : (s.addLen n).round = s.round := rfl
@[simp] theorem State.addLen_cs (n : Nat) : (s.addLen n).cs = s.cs := rfl
@[simp] theorem State.addLen_cpos (n : Nat) : (s.addLen n).cpos = s.cpos := rfl
@[simp] theorem State.addLen_resp (n : Nat) : (s.addLen n).resp = s.resp := rfl
@[simp] theorem State.addLen_free (n : Nat) : (s.addLen n).free = s.free := rfl

@[simp] theorem State.forgetTemps_h : s.forgetTemps.h = s.h := rfl
@[simp] theorem State.forgetTemps_len : s.forgetTemps.len = s.len := rfl
@[simp] theorem State.forgetTemps_buf : s.forgetTemps.buf = s.buf := rfl
@[simp] theorem State.forgetTemps_buflen : s.forgetTemps.buflen = s.buflen := rfl
@[simp] theorem State.forgetTemps_round : s.forgetTemps.round = s.round := rfl
@[simp] theorem State.forgetTemps_cs : s.forgetTemps.cs = s.cs := rfl
@[simp] theorem State.forgetTemps_cpos : s.forgetTemps.cpos = s.cpos := rfl
@[simp] theorem State.forgetTemps_resp : s.forgetTemps.resp = s.resp := rfl
@[simp] theorem State.forgetTemps_free : s.forgetTemps.free = s.free + 1 := rfl

@[simp] theorem State.setH_h (v : Digest) : (s.setH v).h = v := rfl
@[simp] theorem State.setH_len (v : Digest) : (s.setH v).len = s.len := rfl
@[simp] theorem State.setH_buf (v : Digest) : (s.setH v).buf = s.buf := rfl
@[simp] theorem State.setH_buflen (v : Digest) : (s.setH v).buflen = s.buflen := rfl
@[simp] theorem State.setH_work (v : Digest) : (s.setH v).work = s.work := rfl
@[simp] theorem State.setH_m (v : Digest) : (s.setH v).m = s.m := rfl
@[simp] theorem State.setH_round (v : Digest) : (s.setH v).round = s.round := rfl
@[simp] theorem State.setH_cs (v : Digest) : (s.setH v).cs = s.cs := rfl
@[simp] theorem State.setH_cpos (v : Digest) : (s.setH v).cpos = s.cpos := rfl
@[simp] theorem State.setH_resp (v : Digest) : (s.setH v).resp = s.resp := rfl
@[simp] theorem State.setH_free (v : Digest) : (s.setH v).free = s.free := rfl

@[simp] theorem State.setWork_h (w : Working) : (s.setWork w).h = s.h := rfl
@[simp] theorem State.setWork_len (w : Working) : (s.setWork w).len = s.len := rfl
@[simp] theorem State.setWork_buf (w : Working) : (s.setWork w).buf = s.buf := rfl
@[simp] theorem State.setWork_buflen (w : Working) : (s.setWork w).buflen = s.buflen := rfl
@[simp] theorem State.setWork_work (w : Working) : (s.setWork w).work = w := rfl
@[simp] theorem State.setWork_m (w : Working) : (s.setWork w).m = s.m := rfl
@[simp] theorem State.setWork_round (w : Working) : (s.setWork w).round = s.round := rfl
@[simp] theorem State.setWork_cs (w : Working) : (s.setWork w).cs = s.cs := rfl
@[simp] theorem State.setWork_cpos (w : Working) : (s.setWork w).cpos = s.cpos := rfl
@[simp] theorem State.setWork_resp (w : Working) : (s.setWork w).resp = s.resp := rfl
@[simp] theorem State.setWork_free (w : Working) : (s.setWork w).free = s.free := rfl

@[simp] theorem State.resetSession_h : s.resetSession.h = Digest.init := rfl
@[simp] theorem State.resetSession_len : s.resetSession.len = 0 := rfl
@[simp] theorem State.resetSession_buf : s.resetSession.buf = s.buf := rfl
@[simp] theorem State.resetSession_buflen : s.resetSession.buflen = 0 := rfl
@[simp] theorem State.resetSession_work : s.resetSession.work = s.work := rfl
@[simp] theorem State.resetSession_m : s.resetSession.m = s.m := rfl
@[simp] theorem State.resetSession_round : s.resetSession.round = s.round := rfl
@[simp] theorem State.resetSession_cs : s.resetSession.cs = s.cs := rfl
@[simp] theorem State.resetSession_cpos : s.resetSession.cpos = s.cpos := rfl
@[simp] theorem State.resetSession_resp : s.resetSession.resp = s.resp := rfl
@[simp] theorem State.resetSession_free : s.resetSession.free = s.free := rfl

@[simp] theorem State.emit_h (out : List Byte) : (s.emit out).h = s.h := rfl
@[simp] theorem State.emit_len (out : List Byte) : (s.emit out).len = s.len := rfl
@[simp] theorem State.emit_buf (out : List Byte) : (s.emit out).buf = s.buf := rfl
@[simp] theorem State.emit_buflen (out : List Byte) : (s.emit out).buflen = s.buflen := rfl
@[simp] theorem State.emit_work (out : List Byte) : (s.emit out).work = s.work := rfl
@[simp] theorem State.emit_m (out : List Byte) : (s.emit out).m = s.m := rfl
@[simp] theorem State.emit_round (out : List Byte) : (s.emit out).round = s.round := rfl
@[simp] theorem State.emit_cs (out : List Byte) : (s.emit out).cs = s.cs := rfl
@[simp] theorem State.emit_cpos (out : List Byte) : (s.emit out).cpos = s.cpos := rfl
@[simp] theorem State.emit_resp (out : List Byte) : (s.emit out).resp = s.resp ++ out := rfl
@[simp] theorem State.emit_free (out : List Byte) : (s.emit out).free = s.free := rfl

@[simp] theorem State.consume_h (n : Nat) : (s.consume n).h = s.h := rfl
@[simp] theorem State.consume_len (n : Nat) : (s.consume n).len = s.len := rfl
@[simp] theorem State.consume_buf (n : Nat) : (s.consume n).buf = s.buf := rfl
@[simp] theorem State.consume_buflen (n : Nat) : (s.consume n).buflen = s.buflen := rfl
@[simp] theorem State.consume_work (n : Nat) : (s.consume n).work = s.work := rfl
@[simp] theorem State.consume_m (n : Nat) : (s.consume n).m = s.m := rfl
@[simp] theorem State.consume_round (n : Nat) : (s.consume n).round = s.round := rfl
@[simp] theorem State.consume_cs (n : Nat) : (s.consume n).cs = s.cs.drop n := rfl
@[simp] theorem State.consume_cpos (n : Nat) : (s.consume n).cpos = s.cpos + n := rfl
@[simp] theorem State.consume_resp (n : Nat) : (s.consume n).resp = s.resp := rfl
@[simp] theorem State.consume_free (n : Nat) : (s.consume n).free = s.free := rfl

@[simp] theorem State.advanceRound_h (i : RIdx) : (s.advanceRound i).h = s.h := rfl
@[simp] theorem State.advanceRound_len (i : RIdx) : (s.advanceRound i).len = s.len := rfl
@[simp] theorem State.advanceRound_buf (i : RIdx) : (s.advanceRound i).buf = s.buf := rfl
@[simp] theorem State.advanceRound_buflen (i : RIdx) : (s.advanceRound i).buflen = s.buflen := rfl
@[simp] theorem State.advanceRound_work (i : RIdx) : (s.advanceRound i).work = s.work := rfl
@[simp] theorem State.advanceRound_m (i : RIdx) : (s.advanceRound i).m = s.m := rfl
@[simp] theorem State.advanceRound_round (i : RIdx) : (s.advanceRound i).round = nextRound i := rfl
@[simp] theorem State.advanceRound_cs (i : RIdx) : (s.advanceRound i).cs = s.cs := rfl
@[simp] theorem State.advanceRound_cpos (i : RIdx) : (s.advanceRound i).cpos = s.cpos := rfl
@[simp] theorem State.advanceRound_resp (i : RIdx) : (s.advanceRound i).resp = s.resp := rfl
@[simp] theorem State.advanceRound_free (i : RIdx) : (s.advanceRound i).free = s.free := rfl

@[simp] theorem State.startTransform_h (v : Digest) (b : Block) : (s.startTransform v b).h = s.h := rfl
@[simp] theorem State.startTransform_len (v : Digest) (b : Block) : (s.startTransform v b).len = s.len := rfl
@[simp] theorem State.startTransform_buf (v : Digest) (b : Block) : (s.startTransform v b).buf = s.buf := rfl
@[simp] theorem State.startTransform_buflen (v : Digest) (b : Block) : (s.startTransform v b).buflen = s.buflen := rfl
@[simp] theorem State.startTransform_work (v : Digest) (b : Block) : (s.startTransform v b).work = ⟨v.h0, v.h1, v.h2, v.h3⟩ := rfl
@[simp] theorem State.startTransform_m (v : Digest) (b : Block) : (s.startTransform v b).m = b := rfl
@[simp] theorem State.startTransform_round (v : Digest) (b : Block) : (s.startTransform v b).round = some 0 := rfl
@[simp] theorem State.startTransform_cs (v : Digest) (b : Block) : (s.startTransform v b).cs = s.cs := rfl
@[simp] theorem State.startTransform_cpos (v : Digest) (b : Block) : (s.startTransform v b).cpos = s.cpos := rfl
@[simp] theorem State.startTransform_resp (v : Digest) (b : Block) : (s.startTransform v b).resp = s.resp := rfl
@[simp] theorem State.startTransform_free (v : Digest) (b : Block) : (s.startTransform v b).free = s.free := rfl

end Sys2Proof.Machine
end

