-- ==== Sys2Proof/Laws/Ops.lean ====
section
/-! SUPPORT. For each shared operation, once, what it can do. -/

namespace Sys2Proof.Machine

/-! ### Appending to the carry buffer -/

@[simp] theorem State.appendBytes_nil (s : State) : s.appendBytes [] = s := rfl

@[simp] theorem State.appendBytes_cons (s : State) (b : Byte) (bs : List Byte) :
    s.appendBytes (b :: bs) = (s.appendByte b).appendBytes bs := rfl

/-- Appends touch `BUF` and `BUFLEN` and nothing else. -/
theorem State.appendBytes_frame (s : State) (data : List Byte) :
    ∃ buf buflen, s.appendBytes data = { s with buf := buf, buflen := buflen } := by
  induction data generalizing s with
  | nil => exact ⟨s.buf, s.buflen, rfl⟩
  | cons b bs ih =>
    obtain ⟨buf, buflen, h⟩ := ih (s.appendByte b)
    exact ⟨buf, buflen, by rw [State.appendBytes_cons, h]; rfl⟩

/-- The fill grows by what is appended, while it fits the storage. -/
theorem State.appendBytes_buflen (s : State) (data : List Byte) (hfit : s.buflen.toNat + data.length ≤ 64) :
    (s.appendBytes data).buflen.toNat = s.buflen.toNat + data.length := by
  induction data generalizing s with
  | nil => rfl
  | cons b bs ih =>
    simp only [List.length_cons] at hfit
    have hone : (s.appendByte b).buflen.toNat = s.buflen.toNat + 1 := by
      simp [BitVec.toNat_add]; omega
    rw [State.appendBytes_cons, ih _ (by omega), hone, List.length_cons]
    omega

/-- What every address of `BUF` reads after appends that fit (R41): the stored bytes from `BUFLEN` on, and
the old bytes elsewhere. -/
theorem State.appendBytes_read (s : State) (data : List Byte) (hw : s.buf.wf = true)
    (hfit : s.buflen.toNat + data.length ≤ 64) (a : Nat) :
    (s.appendBytes data).buf.read a =
      if s.buflen.toNat ≤ a ∧ a < s.buflen.toNat + data.length then data.getD (a - s.buflen.toNat) 0
      else s.buf.read a := by
  induction data generalizing s with
  | nil =>
    have hno : ¬(s.buflen.toNat ≤ a ∧ a < s.buflen.toNat + ([] : List Byte).length) := by
      simp only [List.length_nil]; omega
    rw [if_neg hno, State.appendBytes_nil]
  | cons b bs ih =>
    simp only [List.length_cons] at hfit
    have hone : (s.appendByte b).buflen.toNat = s.buflen.toNat + 1 := by
      simp [BitVec.toNat_add]; omega
    have hw' : (s.appendByte b).buf.wf = true := Memory.wf_write b hw (by simp [Config.bufCap]; omega)
    rw [State.appendBytes_cons, ih _ hw' (by omega), hone]
    by_cases hcur : a = s.buflen.toNat
    · subst hcur
      simp [Memory.read_write_same b (lo := 0) hw]
    · rw [State.appendByte_buf, Memory.read_write_other s.buf b hcur]
      by_cases hin : s.buflen.toNat + 1 ≤ a ∧ a < s.buflen.toNat + 1 + bs.length
      · have hin' : s.buflen.toNat ≤ a ∧ a < s.buflen.toNat + (b :: bs).length := by
          simp only [List.length_cons]; omega
        rw [if_pos hin, if_pos hin']
        obtain ⟨k, hk⟩ : ∃ k, a - s.buflen.toNat = k + 1 := ⟨a - s.buflen.toNat - 1, by omega⟩
        rw [hk, show a - (s.buflen.toNat + 1) = k by omega]
        rfl
      · have hin' : ¬(s.buflen.toNat ≤ a ∧ a < s.buflen.toNat + (b :: bs).length) := by
          simp only [List.length_cons]; omega
        rw [if_neg hin, if_neg hin']

/-- Appends that fit keep the canonical form. -/
theorem State.appendBytes_wf (s : State) (data : List Byte) (hw : s.buf.wf = true)
    (hfit : s.buflen.toNat + data.length ≤ 64) : (s.appendBytes data).buf.wf = true := by
  induction data generalizing s with
  | nil => exact hw
  | cons b bs ih =>
    simp only [List.length_cons] at hfit
    have hone : (s.appendByte b).buflen.toNat = s.buflen.toNat + 1 := by
      simp [BitVec.toNat_add]; omega
    exact ih _ (Memory.wf_write b hw (by simp [Config.bufCap]; omega)) (by omega)

/-! ### COMPRESS -/

@[simp] theorem compress_zero (src : List Byte) (s : State) : compress src 0 s = s := rfl

/-- `COMPRESS` writes `H` and the temporaries (and draws free values), nothing else (R131). -/
theorem compress_frame (src : List Byte) (count : Nat) (s : State) :
    ∃ work m free, compress src count s =
      { s with h := compressBlocks s.h src count, work := work, m := m, free := free } := by
  by_cases hc : count = 0
  · subst hc
    exact ⟨s.work, s.m, s.free, rfl⟩
  · refine ⟨s.forgetTemps.work, s.forgetTemps.m, s.free + 1, ?_⟩
    simp only [compress, hc, if_false]
    rfl

theorem compress_h (src : List Byte) (count : Nat) (s : State) :
    (compress src count s).h = compressBlocks s.h src count := by
  obtain ⟨_, _, _, h⟩ := compress_frame src count s
  rw [h]

@[simp] theorem compress_len (src : List Byte) (count : Nat) (s : State) :
    (compress src count s).len = s.len := by
  obtain ⟨_, _, _, h⟩ := compress_frame src count s
  rw [h]

@[simp] theorem compress_buf (src : List Byte) (count : Nat) (s : State) :
    (compress src count s).buf = s.buf := by
  obtain ⟨_, _, _, h⟩ := compress_frame src count s
  rw [h]

@[simp] theorem compress_buflen (src : List Byte) (count : Nat) (s : State) :
    (compress src count s).buflen = s.buflen := by
  obtain ⟨_, _, _, h⟩ := compress_frame src count s
  rw [h]

/-! ### Accepting a payload -/

/-- Everything `acceptPayload` can answer (R141, R193). -/
theorem acceptPayload_cases (data : List Byte) (s : State) (effect : State → State) :
    (maxTotalBytes < s.len.toNat + data.length ∧ acceptPayload data s effect = .refused .lengthBound) ∨
    (s.len.toNat + data.length ≤ maxTotalBytes ∧ 64 ≤ s.buflen.toNat ∧
      acceptPayload data s effect = .fault .carryOverfull) ∨
    (s.len.toNat + data.length ≤ maxTotalBytes ∧ s.buflen.toNat < 64 ∧
      acceptPayload data s effect = .next (effect s)) := by
  by_cases hb : maxTotalBytes < s.len.toNat + data.length
  · exact .inl ⟨hb, by simp [acceptPayload, overLengthBound, hb]⟩
  · by_cases hc : 64 ≤ s.buflen.toNat
    · exact .inr (.inl ⟨by omega, hc, by simp [acceptPayload, overLengthBound, hb, carryOverfull, Config.bufCap, hc]⟩)
    · exact .inr (.inr ⟨by omega, by omega,
        by simp [acceptPayload, overLengthBound, hb, carryOverfull, Config.bufCap, hc]⟩)

/-! ### Passing over an outcome -/

theorem onNext_next {f : State → State} {o : Host.Outcome State Fault Refusal} {t : State}
    (h : onNext f o = .next t) : ∃ u, o = .next u ∧ t = f u := by
  cases o with
  | next u =>
    simp only [onNext, Host.Outcome.next.injEq] at h
    exact ⟨u, rfl, h.symm⟩
  | fault r => simp [onNext] at h
  | refused r => simp [onNext] at h

theorem onNext_fault {f : State → State} {o : Host.Outcome State Fault Refusal} {r : Fault}
    (h : onNext f o = .fault r) : o = .fault r := by
  cases o with
  | next u => simp [onNext] at h
  | fault r' => exact h
  | refused r' => simp [onNext] at h

theorem onNext_refused {f : State → State} {o : Host.Outcome State Fault Refusal} {r : Refusal}
    (h : onNext f o = .refused r) : o = .refused r := by
  cases o with
  | next u => simp [onNext] at h
  | fault r' => simp [onNext] at h
  | refused r' => exact h

/-! ### Round codes -/

/-- The fields of a round index say which it is (R80). -/
theorem roundCode_fields (i : RIdx) : roundCode (roundGroup i) (roundPos i) = i := by
  revert i; decide

@[simp] theorem roundGroup_roundCode (grp : BitVec 2) (j : BitVec 4) : roundGroup (roundCode grp j) = grp := by
  revert grp j; decide

@[simp] theorem roundPos_roundCode (grp : BitVec 2) (j : BitVec 4) : roundPos (roundCode grp j) = j := by
  revert grp j; decide

end Sys2Proof.Machine
end

