-- ==== Sys2Proof/Laws/PerInstr.lean ====
section
/-! SUPPORT. Statements made for every instruction as syntax. FrameLength: the first byte of a command's
frame is its opcode and its length is `framelen` (spec/30_encoding.md R71, R72, R82). -/

namespace Sys2Proof.Laws.FrameLength

open Sys2Proof.Machine

/-- `framelen` of a command; a round has no frame (R80). -/
def frameLength : Instr → Option Nat
  | .reset => some 1
  | .feed data => some (9 + data.length)
  | .finalize data => some (9 + data.length)
  | .ff _ => none
  | .gg _ => none
  | .hh _ => none
  | .ii _ => none

/-- The encoding has the length the format gives it. -/
def Statement (i : Instr) : Prop :=
  match encode i with
  | .frame bytes => frameLength i = some bytes.length
  | .ridx _ => frameLength i = none

theorem encodePayload_length (op : Byte) (data : List Byte) :
    (encodePayload op data).length = 9 + data.length := by
  simp [encodePayload, leBytes]; omega

theorem reset : Statement .reset := rfl

theorem feed (data : List Byte) : Statement (.feed data) := by
  simp [Statement, encode, frameLength, encodePayload_length]

theorem finalize (data : List Byte) : Statement (.finalize data) := by
  simp [Statement, encode, frameLength, encodePayload_length]

theorem ff (j : BitVec 4) : Statement (.ff j) := rfl

theorem gg (j : BitVec 4) : Statement (.gg j) := rfl

theorem hh (j : BitVec 4) : Statement (.hh j) := rfl

theorem ii (j : BitVec 4) : Statement (.ii j) := rfl

end Sys2Proof.Laws.FrameLength
end

