-- ==== Sys2Proof/Laws/Step.lean ====
section
/-! SUPPORT. Inversion: what an instruction and a step can answer, once. -/

namespace Sys2Proof.Machine

/-- Every next state of an instruction. -/
theorem exec_next_cases {i : Instr} {s t : State} (h : exec i s = .next t) :
    (i = .reset ∧ t = s.resetSession) ∨
    (∃ data, i = .feed data ∧ s.len.toNat + data.length ≤ maxTotalBytes ∧ s.buflen.toNat < 64 ∧
      t = feed data s) ∨
    (∃ data, i = .finalize data ∧ s.len.toNat + data.length ≤ maxTotalBytes ∧ s.buflen.toNat < 64 ∧
      t = finalize data s) ∨
    (∃ w, t = s.setWork w ∧ ∃ j, i = .ff j ∨ i = .gg j ∨ i = .hh j ∨ i = .ii j) := by
  cases i with
  | reset =>
    simp only [exec, execReset, Host.Outcome.next.injEq] at h
    exact .inl ⟨rfl, h.symm⟩
  | feed data =>
    simp only [exec, execFeed] at h
    obtain ⟨-, h'⟩ | ⟨-, -, h'⟩ | ⟨hb, hc, h'⟩ := acceptPayload_cases data s (feed data)
    · simp [h'] at h
    · simp [h'] at h
    · simp only [h', Host.Outcome.next.injEq] at h
      exact .inr (.inl ⟨data, rfl, hb, hc, h.symm⟩)
  | finalize data =>
    simp only [exec, execFinalize] at h
    obtain ⟨-, h'⟩ | ⟨-, -, h'⟩ | ⟨hb, hc, h'⟩ := acceptPayload_cases data s (finalize data)
    · simp [h'] at h
    · simp [h'] at h
    · simp only [h', Host.Outcome.next.injEq] at h
      exact .inr (.inr (.inl ⟨data, rfl, hb, hc, h.symm⟩))
  | ff j =>
    simp only [exec, execFf, stepRound, Host.Outcome.next.injEq] at h
    exact .inr (.inr (.inr ⟨_, h.symm, j, .inl rfl⟩))
  | gg j =>
    simp only [exec, execGg, stepRound, Host.Outcome.next.injEq] at h
    exact .inr (.inr (.inr ⟨_, h.symm, j, .inr (.inl rfl)⟩))
  | hh j =>
    simp only [exec, execHh, stepRound, Host.Outcome.next.injEq] at h
    exact .inr (.inr (.inr ⟨_, h.symm, j, .inr (.inr (.inl rfl))⟩))
  | ii j =>
    simp only [exec, execIi, stepRound, Host.Outcome.next.injEq] at h
    exact .inr (.inr (.inr ⟨_, h.symm, j, .inr (.inr (.inr rfl))⟩))

/-- `FEED` completes within the session bound (R141, R146). -/
theorem exec_feed_eq {data : List Byte} {s : State} (hb : s.len.toNat + data.length ≤ maxTotalBytes)
    (hc : s.buflen.toNat < 64) : exec (.feed data) s = .next (feed data s) := by
  obtain ⟨h, -⟩ | ⟨-, h, -⟩ | ⟨-, -, h⟩ := acceptPayload_cases data s (feed data)
  · omega
  · omega
  · exact h

/-- `FINALIZE` completes within the session bound (R168). -/
theorem exec_finalize_eq {data : List Byte} {s : State} (hb : s.len.toNat + data.length ≤ maxTotalBytes)
    (hc : s.buflen.toNat < 64) : exec (.finalize data) s = .next (finalize data s) := by
  obtain ⟨h, -⟩ | ⟨-, h, -⟩ | ⟨-, -, h⟩ := acceptPayload_cases data s (finalize data)
  · omega
  · omega
  · exact h

/-- `FEED` past the session bound is refused (R141, R191). -/
theorem exec_feed_refused {data : List Byte} {s : State} (hb : maxTotalBytes < s.len.toNat + data.length) :
    exec (.feed data) s = .refused .lengthBound := by
  simp [exec, execFeed, acceptPayload, overLengthBound, hb]

/-- `FEED` within the bound on a carry buffer that is over full between commands (log 7). -/
theorem exec_feed_overfull {data : List Byte} {s : State} (hb : s.len.toNat + data.length ≤ maxTotalBytes)
    (hc : 64 ≤ s.buflen.toNat) : exec (.feed data) s = .fault .carryOverfull := by
  obtain ⟨h, -⟩ | ⟨-, -, h⟩ | ⟨-, h, -⟩ := acceptPayload_cases data s (feed data)
  · omega
  · exact h
  · omega

/-- Every next state of a step. -/
theorem step_next_cases {s t : State} (h : step s = .next t) :
    (fetch s = .wait ∧ t = s) ∨
    (∃ i n u, fetch s = .frame i n ∧ exec i s = .next u ∧ t = u.consume n) ∨
    (∃ r u, fetch s = .round r ∧ exec (decodeRound r) s = .next u ∧ t = u.advanceRound r) := by
  unfold step at h
  split at h
  · next hf => exact .inl ⟨hf, by simpa using h.symm⟩
  · simp at h
  · next i n hf =>
    obtain ⟨u, hu, rfl⟩ := onNext_next h
    exact .inr (.inl ⟨i, n, u, hf, hu, rfl⟩)
  · next r hf =>
    obtain ⟨u, hu, rfl⟩ := onNext_next h
    exact .inr (.inr ⟨r, u, hf, hu, rfl⟩)

/-- What `fetch` finds with no `TRANSFORM` open, by the frame decoder's verdict. -/
theorem fetch_idle {s : State} (h : s.round = none) : fetch s = fetchFrame s.cs := by
  simp [fetch, h]

/-- The decoder reads a round index as the micro-operation of its group, so a round of an open
`TRANSFORM` is `roundOp` on the working words (R81, R110). -/
theorem exec_decodeRound (r : RIdx) (s : State) :
    exec (decodeRound r) s = .next (s.setWork (roundOp s.m r s.work)) := by
  have hcode := roundCode_fields r
  unfold decodeRound roundOp mixOf
  split
  · next h0 => simp only [exec, execFf, stepRound, ← h0, hcode]
  · split
    · next h1 => simp only [exec, execGg, stepRound, ← h1, hcode]
    · split
      · next h2 => simp only [exec, execHh, stepRound, ← h2, hcode]
      · next h0 h1 h2 =>
        have h3 : roundGroup r = 3 := by
          revert h0 h1 h2
          generalize roundGroup r = g
          revert g; decide
        simp only [exec, execIi, stepRound, ← h3, hcode]

/-- A round of an open `TRANSFORM`, as a step. -/
theorem step_round {s : State} {r : RIdx} (h : s.round = some r) :
    step s = .next ((s.setWork (roundOp s.m r s.work)).advanceRound r) := by
  simp [step, fetch, h, exec_decodeRound, onNext]

/-- A whole command frame, as a step. -/
theorem step_command {s : State} {i : Instr} {n : Nat} (h : s.round = none)
    (hd : decodeFrame s.cs = .command i n) : step s = onNext (fun t => t.consume n) (exec i s) := by
  simp [step, fetch, h, fetchFrame, hd]

end Sys2Proof.Machine
end

