-- ==== Sys2Proof/Laws/StreamBuffer.lean ====
section
/-! SUPPORT. The Compressor's laws, and what `FEED` does, said once: the lemmas that statements about `FEED` and
`FINALIZE` cite in place of unfolding `feed`. -/

namespace Sys2Proof.Machine

/-- Bytes beyond the blocks asked for are not read. -/
theorem compressBlocks_append (h : Digest) (src more : List Byte) (q : Nat) (hq : 64 * q ≤ src.length) :
    compressBlocks h (src ++ more) q = compressBlocks h src q := by
  induction q generalizing h src with
  | zero => rfl
  | succ q ih =>
    simp only [compressBlocks]
    rw [List.take_append_of_le_length (by omega), List.drop_append_of_le_length (by omega), ih _ _ (by simp; omega)]

/-- Blocks are taken in order with no gap and no overlap. -/
theorem compressBlocks_add (h : Digest) (src : List Byte) (p q : Nat) :
    compressBlocks h src (p + q) = compressBlocks (compressBlocks h src p) (src.drop (64 * p)) q := by
  induction p generalizing h src with
  | zero => simp [compressBlocks]
  | succ p ih =>
    rw [show p + 1 + q = (p + q) + 1 by omega]
    simp only [compressBlocks]
    rw [ih, List.drop_drop]
    congr 2; omega

/-- The source may be cut after the blocks asked for. -/
theorem compressBlocks_take (h : Digest) (src : List Byte) (q n : Nat) (hq : 64 * q ≤ n) :
    compressBlocks h (src.take n) q = compressBlocks h src q := by
  by_cases hn : n ≤ src.length
  · conv_rhs => rw [← List.take_append_drop n src]
    rw [compressBlocks_append _ _ _ _ (by simp; omega)]
  · rw [List.take_of_length_le (by omega)]

/-- Appends that fit extend the buffered bytes. -/
theorem State.appendBytes_buffered (s : State) (data : List Byte) (hw : s.buf.wf = true)
    (hfit : s.buflen.toNat + data.length ≤ 64) :
    (s.appendBytes data).buffered = s.buffered ++ data := by
  apply List.ext_getElem?
  intro j
  rw [State.buffered, State.appendBytes_buflen s data hfit]
  by_cases hj : j < s.buflen.toNat + data.length
  · rw [Memory.bytes_getElem _ _ _ hj, State.appendBytes_read s data hw hfit]
    by_cases hj2 : j < s.buflen.toNat
    · rw [if_neg (by omega), List.getElem?_append_left (by simp [State.buffered, hj2]), State.buffered,
        Memory.bytes_getElem _ _ _ hj2]
    · rw [if_pos (by omega), List.getElem?_append_right (by simp [State.buffered]; omega)]
      have : j - s.buflen.toNat < data.length := by omega
      simp [State.buffered, this]
  · rw [List.getElem?_eq_none (by simp; omega), List.getElem?_eq_none (by simp [State.buffered]; omega)]

/-- What the top-up step leaves, with `k` the bytes it takes: the buffered bytes and these bytes have gone
through the Compressor as far as they fill a block, and nothing is left to feed unless the buffer is empty. -/
theorem topUp_spec (data : List Byte) (s : State) (hw : s.buf.wf = true) (hc : s.buflen.toNat < 64) :
    (topUp data (s.addLen data.length)).buf.wf = true ∧
    (topUp data (s.addLen data.length)).len = s.len + BitVec.ofNat 64 data.length ∧
    topUpCount data.length s ≤ data.length ∧
    (topUp data (s.addLen data.length)).buflen.toNat = (s.buflen.toNat + topUpCount data.length s) % 64 ∧
    ((topUp data (s.addLen data.length)).buflen.toNat = 0 ∨ topUpCount data.length s = data.length) ∧
    (topUp data (s.addLen data.length)).h =
      compressBlocks s.h (s.buffered ++ data) ((s.buflen.toNat + topUpCount data.length s) / 64) ∧
    (topUp data (s.addLen data.length)).buffered =
      (s.buffered ++ data.take (topUpCount data.length s)).drop
        (64 * ((s.buflen.toNat + topUpCount data.length s) / 64)) := by
  have hbl : s.buffered.length = s.buflen.toNat := by simp [State.buffered]
  obtain ⟨s1, hs1⟩ : ∃ s1, topUp data (s.addLen data.length) = s1 := ⟨_, rfl⟩
  obtain ⟨k, hk⟩ : ∃ k, topUpCount data.length s = k := ⟨_, rfl⟩
  rw [hs1, hk]
  by_cases hne : s.buflen.toNat = 0
  · have hb0 : s.buffered = [] := by
      apply List.eq_nil_of_length_eq_zero; omega
    have hk0 : k = 0 := by rw [← hk]; simp [topUpCount, carryNonEmpty, hne]
    have : s1 = s.addLen data.length := by
      rw [← hs1]; simp [topUp, carryNonEmpty, hne]
    subst this
    subst hk0
    have hb : (s.addLen data.length).buffered = s.buffered := rfl
    simp [hne, hw, compressBlocks, hb, hb0]
  · have hkd : k = min (64 - s.buflen.toNat) data.length := by
      rw [← hk]; simp [topUpCount, carryNonEmpty, hne]
    have htl : (data.take k).length = k := by simp; omega
    have hfit : (s.addLen data.length).buflen.toNat + (data.take k).length ≤ 64 := by
      rw [htl, State.addLen_buflen]; omega
    obtain ⟨u, hu⟩ : ∃ u, (s.addLen data.length).appendBytes (data.take k) = u := ⟨_, rfl⟩
    have hucount : topUpCount data.length (s.addLen data.length) = k := hk
    have hs1' : s1 = drainIfFull u := by
      rw [← hs1, ← hu]; simp [topUp, carryNonEmpty, hne, hucount]
    have hub : u.buflen.toNat = s.buflen.toNat + k := by
      rw [← hu, State.appendBytes_buflen _ _ hfit, htl]; rfl
    have huw : u.buf.wf = true := by rw [← hu]; exact State.appendBytes_wf _ _ hw hfit
    have hubuf : u.buffered = s.buffered ++ data.take k := by
      rw [← hu]; exact State.appendBytes_buffered (s.addLen data.length) _ hw hfit
    obtain ⟨buf, bl, hfr⟩ := State.appendBytes_frame (s.addLen data.length) (data.take k)
    rw [hu] at hfr
    have hulen : u.len = s.len + BitVec.ofNat 64 data.length := by rw [hfr]; rfl
    have huh : u.h = s.h := by rw [hfr]; rfl
    by_cases hfull : s.buflen.toNat + k = 64
    · have hd : s1 = (compress (u.buf.bytes 64) 1 u).emptyCarry := by
        rw [hs1']; simp [drainIfFull, carryFull, Config.bufCap, hub, hfull]
      have h64 : u.buf.bytes 64 = s.buffered ++ data.take k := by
        rw [← hubuf, State.buffered, hub, hfull]
      refine ⟨by simpa [hd] using huw, by simp [hd, hulen], by omega, by simp [hd, hfull], by simp [hd], ?_, ?_⟩
      · simp only [hd, State.emptyCarry_h, compress_h, huh, h64, hfull]
        rw [show (64/64) = 1 from rfl]
        conv_rhs => rw [← List.take_append_drop k data, ← List.append_assoc]
        rw [compressBlocks_append _ (s.buffered ++ data.take k) _ 1 (by simp [hbl]; omega)]
      · have : s1.buffered = [] := by simp [hd, State.buffered]
        rw [this, hfull]
        symm
        apply List.drop_eq_nil_of_le
        simp [hbl]; omega
    · have hd : s1 = u := by
        rw [hs1']; simp [drainIfFull, carryFull, Config.bufCap, hub, hfull]
      subst hd
      have hlt : s.buflen.toNat + k < 64 := by omega
      refine ⟨huw, hulen, by omega, by omega, by omega, ?_, ?_⟩
      · rw [Nat.div_eq_of_lt hlt, huh]; rfl
      · rw [Nat.div_eq_of_lt hlt, hubuf]; simp

/-- Everything `FEED` does to the session (R146, R147). -/
theorem feed_spec (data : List Byte) (s : State) (hw : s.buf.wf = true) (hc : s.buflen.toNat < 64) :
    (feed data s).buf.wf = true ∧
    (feed data s).len = s.len + BitVec.ofNat 64 data.length ∧
    (feed data s).buflen.toNat = (s.buflen.toNat + data.length) % 64 ∧
    (feed data s).h = compressBlocks s.h (s.buffered ++ data) ((s.buflen.toNat + data.length) / 64) ∧
    (feed data s).buffered = (s.buffered ++ data).drop (64 * ((s.buflen.toNat + data.length) / 64)) := by
  have hbl : s.buffered.length = s.buflen.toNat := by simp [State.buffered]
  obtain ⟨s1, hs1⟩ : ∃ s1, topUp data (s.addLen data.length) = s1 := ⟨_, rfl⟩
  obtain ⟨k, hk⟩ : ∃ k, topUpCount data.length s = k := ⟨_, rfl⟩
  have key := topUp_spec data s hw hc
  rw [hs1, hk] at key
  obtain ⟨hw1, hl1, hkn, hb1, hor, hh1, hbuf1⟩ := key
  have hfeed : feed data s = keepRemainder (data.drop k) (directBlocks (data.drop k) s1) := by
    simp only [feed, hk, hs1]
  obtain ⟨rest, hrest⟩ : ∃ r, data.drop k = r := ⟨_, rfl⟩
  have hrl : rest.length = data.length - k := by rw [← hrest]; simp
  obtain ⟨s2, hs2⟩ : ∃ x, directBlocks rest s1 = x := ⟨_, rfl⟩
  have h2h : s2.h = compressBlocks s1.h rest (rest.length / 64) := by
    rw [← hs2, directBlocks, compress_h, compressBlocks_take _ _ _ _ (by omega)]
  have h2b : s2.buflen = s1.buflen := by rw [← hs2]; simp [directBlocks]
  have h2m : s2.buf = s1.buf := by rw [← hs2]; simp [directBlocks]
  have h2l : s2.len = s1.len := by rw [← hs2]; simp [directBlocks]
  have hdl : (rest.drop (64 * (rest.length / 64))).length = rest.length % 64 := by
    simp; omega
  have hfit2 : s2.buflen.toNat + (rest.drop (64 * (rest.length / 64))).length ≤ 64 := by
    rw [hdl, h2b]; omega
  obtain ⟨buf, bl, hfr⟩ := State.appendBytes_frame s2 (rest.drop (64 * (rest.length / 64)))
  rw [hfeed, hrest, hs2, keepRemainder]
  have hs2buf : s2.buffered = s1.buffered := by simp [State.buffered, h2b, h2m]
  refine ⟨State.appendBytes_wf _ _ (by rw [h2m]; exact hw1) hfit2, by rw [hfr]; simp [h2l, hl1], ?_, ?_, ?_⟩
  · rw [State.appendBytes_buflen _ _ hfit2, hdl, h2b, hb1]; omega
  · rw [hfr]; simp only; rw [h2h, hh1]
    have hq : (s.buflen.toNat + data.length) / 64 = (s.buflen.toNat + k) / 64 + rest.length / 64 := by omega
    rw [hq, compressBlocks_add]
    rcases hor with h0 | hkd
    · congr 1
      have hbk : 64 * ((s.buflen.toNat + k) / 64) = s.buffered.length + k := by omega
      rw [hbk, List.drop_append, ← hrest]
      simp
    · have : rest = [] := by apply List.eq_nil_of_length_eq_zero; omega
      simp [this, compressBlocks]
  · rw [State.appendBytes_buffered _ _ (by rw [h2m]; exact hw1) hfit2, hs2buf, hbuf1]
    rcases hor with h0 | hkd
    · have hbk : 64 * ((s.buflen.toNat + k) / 64) = s.buffered.length + k := by omega
      have hz : (s.buffered ++ data.take k).drop (64 * ((s.buflen.toNat + k) / 64)) = [] := by
        apply List.drop_eq_nil_of_le; simp; omega
      have hq : (s.buflen.toNat + data.length) / 64 = (s.buflen.toNat + k) / 64 + rest.length / 64 := by omega
      have hbuf0 : s.buffered.drop (64 * ((s.buflen.toNat + k) / 64 + rest.length / 64)) = [] :=
        List.drop_eq_nil_of_le (by omega)
      rw [hz, hq, List.drop_append, hbuf0, List.nil_append, List.nil_append]
      have hdrop : ∀ x, rest.drop x = data.drop (k + x) := fun x => by rw [← hrest, List.drop_drop]
      rw [hdrop]
      congr 1
      omega
    · have : rest = [] := by apply List.eq_nil_of_length_eq_zero; omega
      simp [this, hkd]

/-- What `FEED` never touches: the sequencer and the streams. -/
theorem feed_frame (data : List Byte) (s : State) :
    (feed data s).round = s.round ∧ (feed data s).cs = s.cs ∧ (feed data s).cpos = s.cpos ∧
      (feed data s).resp = s.resp := by
  have happ : ∀ (u : State) (bs : List Byte), (u.appendBytes bs).round = u.round ∧
      (u.appendBytes bs).cs = u.cs ∧ (u.appendBytes bs).cpos = u.cpos ∧
      (u.appendBytes bs).resp = u.resp := fun u bs => by
    obtain ⟨_, _, h⟩ := State.appendBytes_frame u bs
    rw [h]; exact ⟨rfl, rfl, rfl, rfl⟩
  have hcomp : ∀ (src : List Byte) (q : Nat) (u : State), (compress src q u).round = u.round ∧
      (compress src q u).cs = u.cs ∧ (compress src q u).cpos = u.cpos ∧
      (compress src q u).resp = u.resp := fun src q u => by
    obtain ⟨_, _, _, h⟩ := compress_frame src q u
    rw [h]; exact ⟨rfl, rfl, rfl, rfl⟩
  have hdrain : ∀ u : State, (drainIfFull u).round = u.round ∧ (drainIfFull u).cs = u.cs ∧
      (drainIfFull u).cpos = u.cpos ∧ (drainIfFull u).resp = u.resp := fun u => by
    unfold drainIfFull
    split
    · exact hcomp _ _ _
    · exact ⟨rfl, rfl, rfl, rfl⟩
  have htop : (topUp data (s.addLen data.length)).round = s.round ∧
      (topUp data (s.addLen data.length)).cs = s.cs ∧ (topUp data (s.addLen data.length)).cpos = s.cpos ∧
      (topUp data (s.addLen data.length)).resp = s.resp := by
    unfold topUp
    split
    · obtain ⟨h1, h2, h3, h4⟩ := hdrain ((s.addLen data.length).appendBytes
        (data.take (topUpCount data.length (s.addLen data.length))))
      obtain ⟨g1, g2, g3, g4⟩ := happ (s.addLen data.length)
        (data.take (topUpCount data.length (s.addLen data.length)))
      exact ⟨h1.trans g1, h2.trans g2, h3.trans g3, h4.trans g4⟩
    · exact ⟨rfl, rfl, rfl, rfl⟩
  obtain ⟨t1, t2, t3, t4⟩ := htop
  simp only [feed, keepRemainder, directBlocks]
  obtain ⟨a1, a2, a3, a4⟩ := happ (compress _ _ (topUp data (s.addLen data.length))) _
  obtain ⟨c1, c2, c3, c4⟩ := hcomp _ _ (topUp data (s.addLen data.length))
  exact ⟨(a1.trans c1).trans t1, (a2.trans c2).trans t2, (a3.trans c3).trans t3, (a4.trans c4).trans t4⟩

end Sys2Proof.Machine
end

