-- ==== Sys2Proof/Laws/System.lean ====
section
/-! SUPPORT. What a step of one core of a system does, once. -/

namespace Sys2Proof.Machine

/-- A step of a system is a step of the core it names, which alone is replaced. -/
theorem stepCore_next {k : Nat} {sys a : System} (h : stepCore k sys = .next a) :
    (sys[k]? = none ∧ a = sys) ∨ ∃ s t, sys[k]? = some s ∧ step s = .next t ∧ a = sys.set k t := by
  unfold stepCore at h
  split at h
  · next hn => exact .inl ⟨hn, by simpa using h.symm⟩
  · next s hs =>
    split at h
    · next t ht => exact .inr ⟨s, t, hs, ht, by simpa using h.symm⟩
    · simp at h
    · simp at h

/-- What a core answers depends on that core alone: a step of another does not change whether it faults. -/
theorem stepCore_fault {k : Nat} {sys : System} {r : Fault} :
    stepCore k sys = .fault r ↔ ∃ s, sys[k]? = some s ∧ step s = .fault r := by
  unfold stepCore
  split
  · next hn => simp [hn]
  · next s hs => split <;> simp_all

/-- The same of a refusal. -/
theorem stepCore_refused {k : Nat} {sys : System} {r : Refusal} :
    stepCore k sys = .refused r ↔ ∃ s, sys[k]? = some s ∧ step s = .refused r := by
  unfold stepCore
  split
  · next hn => simp [hn]
  · next s hs => split <;> simp_all

@[simp] theorem goOn_next (s : State) : goOn (.next s) = step s := rfl

@[simp] theorem goOn_fault (r : Fault) : goOn (.fault r) = .fault r := rfl

@[simp] theorem goOn_refused (r : Refusal) : goOn (.refused r) = .refused r := rfl

@[simp] theorem runInterleaved_nil (cores : List (Host.Outcome State Fault Refusal)) :
    runInterleaved [] cores = cores := rfl

@[simp] theorem runInterleaved_cons (k : Nat) (sched : List Nat)
    (cores : List (Host.Outcome State Fault Refusal)) :
    runInterleaved (k :: sched) cores = runInterleaved sched (cores.modify k goOn) := rfl

end Sys2Proof.Machine
end

