-- ==== Sys2Proof/Machine/Conformance.lean ====
section
/-! DEFINITION. The conformance check R117 (spec/40_round_engine.md) asks of a model: the per-round traces T1 and T2
of spec/95_test_vectors.md 2.3, column by column, and what it is for a round to be as its row says. That every row
holds is shown in Tests/Slice0.lean. -/

namespace Sys2Proof.Machine

/-- The state inside trace T1 or T2 with the given working words. -/
def inRound (m0 m14 : Word) (w : Working) : State :=
  { State.reset with work := w, m := ((Vector.replicate 16 0).set 0 m0).set 14 m14 }

/-- The working words an outcome leaves. -/
def workAfter : Host.Outcome State Fault Refusal → Option Working
  | .next s => some s.work
  | .fault _ => none
  | .refused _ => none

/-- A row of a trace: `g(i)`, `S[i]`, `f(b,c,d)`, the sum `t`, and the words after the round, whose `b` is `new`. -/
structure TraceRow where
  g : Nat
  s : Nat
  f : Word
  t : Word
  after : Working
deriving DecidableEq, Repr

/-- One round, from the working words before it, is as the row says: the operands, and the one instruction. -/
def rowHolds (m0 m14 : Word) (i : RIdx) (w : Working) (r : TraceRow) : Bool :=
  decide ((roundG i).val = r.g) && decide (roundS i = r.s) && decide (mixOf i w.b w.c w.d = r.f)
    && decide (roundSum (mixOf i) (inRound m0 m14 w).m i w = r.t)
    && decide (workAfter (exec (decodeRound i) (inRound m0 m14 w)) = some r.after)

/-- Row after row, each round from the words of the row before. -/
def traceHolds (m0 m14 : Word) : Nat → Working → List TraceRow → Bool
  | _, _, [] => true
  | i, w, r :: rest => rowHolds m0 m14 (BitVec.ofNat 6 i) w r && traceHolds m0 m14 (i + 1) r.after rest

/-- The words after the last row. -/
def lastOf (rows : List TraceRow) : Working := (rows.getLast?.map TraceRow.after).getD ⟨0, 0, 0, 0⟩

/-- Trace T1, rounds 0 to 15. -/
def t1Ff : List TraceRow := [
  ⟨0, 7, 0x98badcfe, 0xd76aa4f7, ⟨0x10325476, 0xa5202774, 0xefcdab89, 0x98badcfe⟩⟩,
  ⟨1, 12, 0xbd9afb8a, 0xb6950756, ⟨0x98badcfe, 0xf59592dd, 0xa5202774, 0xefcdab89⟩⟩,
  ⟨2, 17, 0xaf482b54, 0x6c23792d, ⟨0xefcdab89, 0xe7f06b23, 0xf59592dd, 0xa5202774⟩⟩,
  ⟨3, 22, 0xe5900655, 0x971b80cc, ⟨0xa5202774, 0x1b163203, 0xe7f06b23, 0xf59592dd⟩⟩,
  ⟨4, 7, 0xe791a2df, 0x822dda02, ⟨0xf59592dd, 0x32033344, 0x1b163203, 0xe7f06b23⟩⟩,
  ⟨5, 12, 0xd7f27a23, 0x150fd32a, ⟨0xe7f06b23, 0x2f35d494, 0x32033344, 0x1b163203⟩⟩,
  ⟨6, 17, 0x32033207, 0xc223e33d, ⟨0x1b163203, 0xf5b158db, 0x2f35d494, 0x32033344⟩⟩,
  ⟨7, 22, 0x27337394, 0x3f903a98, ⟨0x32033344, 0x9bc13ce9, 0xf5b158db, 0x2f35d494⟩⟩,
  ⟨8, 7, 0xb5b5d8dd, 0x5139a4f9, ⟨0x2f35d494, 0x3893b991, 0x9bc13ce9, 0xf5b158db⟩⟩,
  ⟨9, 12, 0xdda178cb, 0x981c450e, ⟨0xf5b158db, 0xfce4a312, 0x3893b991, 0x9bc13ce9⟩⟩,
  ⟨10, 17, 0x3b81bdf9, 0x31327285, ⟨0x9bc13ce9, 0xe1ef0576, 0xfce4a312, 0x3893b991⟩⟩,
  ⟨11, 22, 0xf8f4b993, 0x1e12ce3a, ⟨0x3893b991, 0x70768a29, 0xe1ef0576, 0xfce4a312⟩⟩,
  ⟨12, 7, 0xece62132, 0x9109ebe5, ⟨0xfce4a312, 0xf56c7cf1, 0x70768a29, 0xe1ef0576⟩⟩,
  ⟨13, 12, 0x70e70927, 0x6b641dcc, ⟨0xe1ef0576, 0x374943a7, 0xf56c7cf1, 0x70768a29⟩⟩,
  ⟨14, 17, 0x757ec8a9, 0xfde711ad, ⟨0x70768a29, 0x5aa53f75, 0x374943a7, 0xf56c7cf1⟩⟩,
  ⟨15, 22, 0xb74943a5, 0x7173d5ef, ⟨0xf56c7cf1, 0xd6819c6a, 0x5aa53f75, 0x374943a7⟩⟩]

/-- Trace T1, rounds 16 to 31. -/
def t1Gg : List TraceRow := [
  ⟨1, 5, 0x5ea53c72, 0x4a2fdec5, ⟨0x374943a7, 0x1c7d7513, 0xd6819c6a, 0x5aa53f75⟩⟩,
  ⟨6, 9, 0x9c25b51b, 0x93afac02, ⟨0x5aa53f75, 0x7bd57a3a, 0x1c7d7513, 0xd6819c6a⟩⟩,
  ⟨11, 14, 0x5afd793b, 0xdc011301, ⟨0xd6819c6a, 0xc095f13a, 0x7bd57a3a, 0x1c7d7513⟩⟩,
  ⟨0, 20, 0x63957b3a, 0x23cddfce, ⟨0x1c7d7513, 0xbd782e17, 0xc095f13a, 0x7bd57a3a⟩⟩,
  ⟨5, 5, 0xb950ab12, 0xabfd3082, ⟨0x7bd57a3a, 0x3d1e3e6c, 0xbd782e17, 0xc095f13a⟩⟩,
  ⟨10, 9, 0x3d7c3e2d, 0xbb95ccba, ⟨0xc095f13a, 0x68b7b3e3, 0x3d1e3e6c, 0xbd782e17⟩⟩,
  ⟨15, 14, 0x2836326b, 0xc16e0a26, ⟨0xbd782e17, 0xeb41643e, 0x68b7b3e3, 0x3d1e3e6c⟩⟩,
  ⟨4, 20, 0x69a1a5af, 0x0eedcf8e, ⟨0x3d1e3e6c, 0xe422531a, 0xeb41643e, 0x68b7b3e3⟩⟩,
  ⟨9, 5, 0xe362571e, 0x42626370, ⟨0x68b7b3e3, 0x306ec122, 0xe422531a, 0xeb41643e⟩⟩,
  ⟨14, 9, 0x24625322, 0x50510edb, ⟨0xeb41643e, 0xd28c77c2, 0x306ec122, 0xe422531a⟩⟩,
  ⟨3, 14, 0xd04cd322, 0xb06344e7, ⟨0xe422531a, 0xa3c663da, 0xd28c77c2, 0x306ec122⟩⟩,
  ⟨8, 20, 0xe2c677c2, 0x0c42dfc9, ⟨0x306ec122, 0xa0572807, 0xa3c663da, 0xd28c77c2⟩⟩,
  ⟨13, 5, 0xa146201a, 0x7b98ca41, ⟨0xd28c77c2, 0x13707036, 0xa0572807, 0xa3c663da⟩⟩,
  ⟨2, 9, 0x03516817, 0xd2cd83d1, ⟨0xa3c663da, 0xae7813db, 0x13707036, 0xa0572807⟩⟩,
  ⟨7, 14, 0xb3705033, 0xbea5b6e6, ⟨0xa0572807, 0x1c31c384, 0xae7813db, 0x13707036⟩⟩,
  ⟨12, 20, 0xbc3843cd, 0xe9b9b85e, ⟨0x13707036, 0xa2205f1f, 0x1c31c384, 0xae7813db⟩⟩]

/-- Trace T1, rounds 32 to 47. -/
def t1Hh : List TraceRow := [
  ⟨5, 4, 0x10698f40, 0x23d438b8, ⟨0xae7813db, 0xdf63eaa1, 0xa2205f1f, 0x1c31c384⟩⟩,
  ⟨8, 11, 0x6172763a, 0x975c8096, ⟨0x1c31c384, 0xc3689f5b, 0xdf63eaa1, 0xa2205f1f⟩⟩,
  ⟨11, 16, 0xbe2b2ae5, 0x47fa4f8b, ⟨0xa2205f1f, 0x12f3e755, 0xc3689f5b, 0xdf63eaa1⟩⟩,
  ⟨14, 23, 0x0ef892af, 0xaefe29da, ⟨0xdf63eaa1, 0x004b6669, 0x12f3e755, 0xc3689f5b⟩⟩,
  ⟨1, 4, 0xd1d01e67, 0x55f2f34c, ⟨0xc3689f5b, 0x5f7a9b2e, 0x004b6669, 0x12f3e755⟩⟩,
  ⟨4, 11, 0x4dc21a12, 0x5d098916, ⟨0x12f3e755, 0xabc34e16, 0x5f7a9b2e, 0x004b6669⟩⟩,
  ⟨7, 16, 0xf4f2b351, 0xfea1e606, ⟨0x004b6669, 0x91ca4cb7, 0xabc34e16, 0x5f7a9b2e⟩⟩,
  ⟨10, 23, 0x6573998f, 0x247ebc68, ⟨0x5f7a9b2e, 0xc5dc8c15, 0x91ca4cb7, 0xabc34e16⟩⟩,
  ⟨13, 4, 0xffd58eb4, 0x87eba8a8, ⟨0xabc34e16, 0x4497169d, 0xc5dc8c15, 0x91ca4cb7⟩⟩,
  ⟨0, 11, 0x1081d63f, 0xa6e64ccf, ⟨0x91ca4cb7, 0x76fd93d4, 0x4497169d, 0xc5dc8c15⟩⟩,
  ⟨3, 16, 0xf7b6095c, 0x5e6f8698, ⟨0xc5dc8c15, 0xfd95f243, 0x76fd93d4, 0x4497169d⟩⟩,
  ⟨6, 23, 0xcfff770a, 0x9a642024, ⟨0x4497169d, 0x0fe32453, 0xfd95f243, 0x76fd93d4⟩⟩,
  ⟨9, 4, 0x848b45c4, 0xa2f72c9a, ⟨0x76fd93d4, 0x3f55edfd, 0x0fe32453, 0xfd95f243⟩⟩,
  ⟨12, 11, 0xcd233bed, 0x2afc69a6, ⟨0xfd95f243, 0x22a31f54, 0x3f55edfd, 0x0fe32453⟩⟩,
  ⟨15, 16, 0x1215d6fa, 0x2f4e4635, ⟨0x0fe32453, 0x68d84ea2, 0x22a31f54, 0x3f55edfd⟩⟩,
  ⟨2, 23, 0x752ebc0b, 0x49be36c3, ⟨0x3f55edfd, 0xca7d2dbd, 0x68d84ea2, 0x22a31f54⟩⟩]

/-- Trace T1, rounds 48 to 63. -/
def t1Ii : List TraceRow := [
  ⟨0, 6, 0xb7a5a31d, 0xeb24b3de, ⟨0x22a31f54, 0x93aa2577, 0xca7d2dbd, 0x68d84ea2⟩⟩,
  ⟨7, 10, 0x5dd298c2, 0xc3a0b7ad, ⟨0x68d84ea2, 0x1688dc85, 0x93aa2577, 0xca7d2dbd⟩⟩,
  ⟨14, 15, 0xa420fbb0, 0xb88d6df9, ⟨0xca7d2dbd, 0xcd85b8cb, 0x1688dc85, 0x93aa2577⟩⟩,
  ⟨5, 21, 0xfb5d264e, 0xc26df444, ⟨0x93aa2577, 0x561e0689, 0xcd85b8cb, 0x1688dc85⟩⟩,
  ⟨12, 6, 0x32fa9f30, 0x2c001e6a, ⟨0x1688dc85, 0x5625a114, 0x561e0689, 0xcd85b8cb⟩⟩,
  ⟨3, 10, 0x2061e1bd, 0xc5f78ad4, ⟨0xcd85b8cb, 0x3450f42b, 0x5625a114, 0x561e0689⟩⟩,
  ⟨10, 15, 0xebd45c6b, 0xb94a09b3, ⟨0x561e0689, 0x392ad0d0, 0x3450f42b, 0x5625a114⟩⟩,
  ⟨1, 21, 0x8daa2ad0, 0x694c8f2a, ⟨0x5625a114, 0x1e77fa61, 0x392ad0d0, 0x3450f42b⟩⟩,
  ⟨8, 6, 0xe6d52b25, 0xaca34a88, ⟨0x3450f42b, 0x474a9c8c, 0x1e77fa61, 0x392ad0d0⟩⟩,
  ⟨15, 10, 0xd9a845ce, 0x0c2620d9, ⟨0x392ad0d0, 0xdfce00bc, 0x474a9c8c, 0x1e77fa61⟩⟩,
  ⟨6, 15, 0xb8849932, 0x94b0ad16, ⟨0x1e77fa61, 0x36594b14, 0xdfce00bc, 0x474a9c8c⟩⟩,
  ⟨13, 21, 0x61336bcb, 0xcdb377cd, ⟨0x474a9c8c, 0x30130182, 0x36594b14, 0xdfce00bc⟩⟩,
  ⟨4, 6, 0x066ab4d7, 0x4508cfe5, ⟨0xdfce00bc, 0x7246fad3, 0x30130182, 0x36594b14⟩⟩,
  ⟨11, 10, 0xcbf5ff79, 0x68fef26a, ⟨0x36594b14, 0x6e10a476, 0x7246fad3, 0x30130182⟩⟩,
  ⟨2, 15, 0x9dba04ac, 0xfeeb227b, ⟨0x30130182, 0xff4ea3eb, 0x6e10a476, 0x7246fad3⟩⟩,
  ⟨9, 21, 0x91ef0399, 0xad88d8ac, ⟨0x7246fad3, 0x14e45506, 0xff4ea3eb, 0x6e10a476⟩⟩]

/-- Trace T2, rounds 0 to 15. -/
def t2Ff : List TraceRow := [
  ⟨0, 7, 0x98badcfe, 0x57ce06d8, ⟨0x10325476, 0xd6d117b4, 0xefcdab89, 0x98badcfe⟩⟩,
  ⟨1, 12, 0xceebcbca, 0xc7e5d796, ⟨0x98badcfe, 0x344a8432, 0xd6d117b4, 0xefcdab89⟩⟩,
  ⟨2, 17, 0xdfc52fb9, 0x9ca07d92, ⟨0xefcdab89, 0x2f6fbd72, 0x344a8432, 0xd6d117b4⟩⟩,
  ⟨3, 22, 0xf4da86b6, 0xa666012d, ⟨0xd6d117b4, 0x7ad956f2, 0x2f6fbd72, 0x344a8432⟩⟩,
  ⟨4, 7, 0x2e4b9472, 0xfa98bbd5, ⟨0x344a8432, 0xc73741ef, 0x7ad956f2, 0x2f6fbd72⟩⟩,
  ⟨5, 12, 0x6a59fcf2, 0xe62c474e, ⟨0x2f6fbd72, 0x8bac3051, 0xc73741ef, 0x7ad956f2⟩⟩,
  ⟨6, 17, 0xf37546e3, 0xcb154a68, ⟨0x7ad956f2, 0x207dc67b, 0x8bac3051, 0xc73741ef⟩⟩,
  ⟨7, 22, 0xc72e01d5, 0x3f4dedc8, ⟨0xc73741ef, 0x928d99f6, 0x207dc67b, 0x8bac3051⟩⟩,
  ⟨8, 7, 0x092da073, 0x39e57b3a, ⟨0x8bac3051, 0x854b3712, 0x928d99f6, 0x207dc67b⟩⟩,
  ⟨9, 12, 0xa03dd17b, 0xb72ef97b, ⟨0x207dc67b, 0x74e2f284, 0x854b3712, 0x928d99f6⟩⟩,
  ⟨10, 17, 0x864f3b72, 0xa6cc5d9e, ⟨0x928d99f6, 0x3020401c, 0x74e2f284, 0x854b3712⟩⟩,
  ⟨11, 22, 0xb56b7706, 0xd155e8ba, ⟨0x854b3712, 0x5ed49596, 0x3020401c, 0x74e2f284⟩⟩,
  ⟨12, 7, 0x30226214, 0x20fdaa48, ⟨0x74e2f284, 0xdda9b9a6, 0x5ed49596, 0x3020401c⟩⟩,
  ⟨13, 12, 0x7c80d19e, 0xeefc35b5, ⟨0x3020401c, 0xa1051895, 0xdda9b9a6, 0x5ed49596⟩⟩,
  ⟨14, 17, 0xdfd19d86, 0xb66b2148, ⟨0x5ed49596, 0xe396856b, 0xa1051895, 0xdda9b9a6⟩⟩,
  ⟨15, 22, 0xbd2d3885, 0x65b5d63c, ⟨0xdda9b9a6, 0x72aff2e0, 0xe396856b, 0xa1051895⟩⟩]

/-- Trace T2, rounds 16 to 31. -/
def t2Gg : List TraceRow := [
  ⟨1, 5, 0x629795ea, 0x365f74f2, ⟨0xa1051895, 0x3e9e9126, 0x72aff2e0, 0xe396856b⟩⟩,
  ⟨6, 9, 0x32bff3a2, 0x9405bf77, ⟨0xe396856b, 0x4a1d804e, 0x3e9e9126, 0x72aff2e0⟩⟩,
  ⟨11, 14, 0x4e1d8146, 0x58126102, ⟨0x72aff2e0, 0xe25e1652, 0x4a1d804e, 0x3e9e9126⟩⟩,
  ⟨0, 20, 0x621f104a, 0x3ee92d35, ⟨0x3e9e9126, 0xb5b204e4, 0xe25e1652, 0x4a1d804e⟩⟩,
  ⟨5, 5, 0xa0521654, 0xb51fb7d7, ⟨0x4a1d804e, 0x59a8ffda, 0xb5b204e4, 0xe25e1652⟩⟩,
  ⟨10, 9, 0x55a816f6, 0xa209ab97, ⟨0xe25e1652, 0x6d002f1e, 0x59a8ffda, 0xb5b204e4⟩⟩,
  ⟨15, 14, 0x6d08ff1e, 0x2808fbf1, ⟨0xb5b204e4, 0xabfc7920, 0x6d002f1e, 0x59a8ffda⟩⟩,
  ⟨4, 20, 0x2da87904, 0xcb2e79b0, ⟨0x59a8ffda, 0x47092c07, 0xabfc7920, 0x6d002f1e⟩⟩,
  ⟨9, 5, 0xc7fc7c26, 0x438749e6, ⟨0x6d002f1e, 0xb7f268cf, 0x47092c07, 0xabfc7920⟩⟩,
  ⟨14, 9, 0xe7f16c07, 0x1828a313, ⟨0xabfc7920, 0x09388eff, 0xb7f268cf, 0x47092c07⟩⟩,
  ⟨3, 14, 0xb1fa4ccf, 0x52cbd376, ⟨0x47092c07, 0xfe1623b1, 0x09388eff, 0xb7f268cf⟩⟩,
  ⟨8, 20, 0xbe1aa6b1, 0x4a7de7a5, ⟨0xb7f268cf, 0x786acb8f, 0xfe1623b1, 0x09388eff⟩⟩,
  ⟨13, 5, 0xfe2eab8f, 0x6004fd63, ⟨0x09388eff, 0x790a77fb, 0x786acb8f, 0xfe1623b1⟩⟩,
  ⟨2, 9, 0x786aebbf, 0x7e931eb6, ⟨0xfe1623b1, 0x9f47e4f8, 0x790a77fb, 0x786acb8f⟩⟩,
  ⟨7, 14, 0x1942f4f8, 0x7ec81b82, ⟨0x786acb8f, 0xa62884aa, 0x9f47e4f8, 0x790a77fb⟩⟩,
  ⟨12, 20, 0xa64d84aa, 0xabe29cc3, ⟨0x790a77fb, 0x726342d3, 0xa62884aa, 0x9f47e4f8⟩⟩]

/-- Trace T2, rounds 32 to 47. -/
def t2Hh : List TraceRow := [
  ⟨5, 4, 0x4b0c2281, 0xc410d3be, ⟨0x9f47e4f8, 0xb3707ebf, 0x726342d3, 0xa62884aa⟩⟩,
  ⟨8, 11, 0x673bb8c6, 0x8df5943f, ⟨0xa62884aa, 0x60127b2e, 0xb3707ebf, 0x726342d3⟩⟩,
  ⟨11, 16, 0xa1014742, 0xb4c72d0e, ⟨0x726342d3, 0x8d212ff5, 0x60127b2e, 0xb3707ebf⟩⟩,
  ⟨14, 23, 0x5e432a64, 0xce8ba55b, ⟨0xb3707ebf, 0x3b0875c7, 0x8d212ff5, 0x60127b2e⟩⟩,
  ⟨1, 4, 0xd63b211c, 0x2e6a8a1f, ⟨0x60127b2e, 0x21b117b9, 0x3b0875c7, 0x8d212ff5⟩⟩,
  ⟨4, 11, 0x97984d8b, 0x43899862, ⟨0x8d212ff5, 0x6e7429d5, 0x21b117b9, 0x3b0875c7⟩⟩,
  ⟨7, 16, 0x74cd4bab, 0xf8a9c700, ⟨0x3b0875c7, 0x3575227e, 0x6e7429d5, 0x21b117b9⟩⟩,
  ⟨10, 23, 0x7ab01c12, 0x74784e49, ⟨0x21b117b9, 0x5a2f5ea5, 0x3575227e, 0x6e7429d5⟩⟩,
  ⟨13, 4, 0x012e550e, 0x4b7aeb8d, ⟨0x6e7429d5, 0x11de1779, 0x5a2f5ea5, 0x3575227e⟩⟩,
  ⟨0, 11, 0x7e846ba2, 0x57fd1fd2, ⟨0x3575227e, 0xfadcaa38, 0x11de1779, 0x5a2f5ea5⟩⟩,
  ⟨3, 16, 0xb12de3e4, 0xbb9236e7, ⟨0x5a2f5ea5, 0x31c465ca, 0xfadcaa38, 0x11de1779⟩⟩,
  ⟨6, 23, 0xdac6d88b, 0x397e5435, ⟨0x11de1779, 0x4c6124f4, 0x31c465ca, 0xfadcaa38⟩⟩,
  ⟨9, 4, 0x8779eb06, 0x732cd2b8, ⟨0xfadcaa38, 0x7f2e507b, 0x4c6124f4, 0x31c465ca⟩⟩,
  ⟨12, 11, 0x028b1145, 0xe4435562, ⟨0x31c465ca, 0x99d9679d, 0x7f2e507b, 0x4c6124f4⟩⟩,
  ⟨15, 16, 0xaa961312, 0xfbfcf5d4, ⟨0x4c6124f4, 0x8fae6399, 0x99d9679d, 0x7f2e507b⟩⟩,
  ⟨2, 23, 0x6959547f, 0x7a66cfd8, ⟨0x7f2e507b, 0x7beb9700, 0x8fae6399, 0x99d9679d⟩⟩]

/-- Trace T2, rounds 48 to 63. -/
def t2Ii : List TraceRow := [
  ⟨0, 6, 0xf041fcfb, 0xe3fcd21b, ⟨0x99d9679d, 0x7b201df8, 0x7beb9700, 0x8fae6399⟩⟩,
  ⟨7, 10, 0x009a0afe, 0xdd9e7232, ⟨0x8fae6399, 0xf4e8e96e, 0x7b201df8, 0x7beb9700⟩⟩,
  ⟨14, 15, 0x8fdcf407, 0xcb1f7b5f, ⟨0x7beb9700, 0xb298cefd, 0xf4e8e96e, 0x7b201df8⟩⟩,
  ⟨5, 21, 0x42370791, 0xbab63eca, ⟨0x7b201df8, 0x8bf025c4, 0xb298cefd, 0xf4e8e96e⟩⟩,
  ⟨12, 6, 0x396ff928, 0x19eb70e3, ⟨0xf4e8e96e, 0x06cc5e8a, 0x8bf025c4, 0xb298cefd⟩⟩,
  ⟨3, 10, 0xc41f5a4e, 0x4815104e, ⟨0xb298cefd, 0x5b0d97aa, 0x06cc5e8a, 0x8bf025c4⟩⟩,
  ⟨10, 15, 0x79c38131, 0x2c4c44ab, ⟨0x8bf025c4, 0x7d632dd0, 0x5b0d97aa, 0x06cc5e8a⟩⟩,
  ⟨1, 21, 0xa67e3a5f, 0xb7f2bdf4, ⟨0x06cc5e8a, 0x3bfa2c27, 0x7d632dd0, 0x5b0d97aa⟩⟩,
  ⟨8, 6, 0xc29941a7, 0x390e1e80, ⟨0x5b0d97aa, 0x7f81cc35, 0x3bfa2c27, 0x7d632dd0⟩⟩,
  ⟨15, 10, 0xc467f218, 0x1da270a2, ⟨0x7d632dd0, 0x094454ab, 0x7f81cc35, 0x3bfa2c27⟩⟩,
  ⟨6, 15, 0xb2c41bce, 0xd3288cb2, ⟨0x3bfa2c27, 0x4f9dbe3f, 0x094454ab, 0x7f81cc35⟩⟩,
  ⟨13, 21, 0xc6bbeb54, 0x50be291c, ⟨0x7f81cc35, 0x7327d604, 0x4f9dbe3f, 0x094454ab⟩⟩,
  ⟨4, 6, 0xb822416b, 0x2ef78c22, ⟨0x094454ab, 0x310ade8f, 0x7327d604, 0x4f9dbe3f⟩⟩,
  ⟨11, 10, 0xc24d09cb, 0x88cc50ab, ⟨0x4f9dbe3f, 0x624d8cb2, 0x310ade8f, 0x7327d604⟩⟩,
  ⟨2, 15, 0xdfd77374, 0x5a4d046e, ⟨0x7327d604, 0xe484b9d8, 0x624d8cb2, 0x310ade8f⟩⟩,
  ⟨9, 21, 0x8cb8354a, 0xeb66dedf, ⟨0x310ade8f, 0xc08226b3, 0xe484b9d8, 0x624d8cb2⟩⟩]

/-- Trace T1, its 64 rows. -/
def traceT1 : List TraceRow := t1Ff ++ t1Gg ++ t1Hh ++ t1Ii

/-- Trace T2, its 64 rows. -/
def traceT2 : List TraceRow := t2Ff ++ t2Gg ++ t2Hh ++ t2Ii

end Sys2Proof.Machine
end

