-- ==== Sys2Proof/Tests/Slice0.lean ====
section
/-! SUPPORT. Tests. Expected values are the spec's: the rules' worked examples and spec/95_test_vectors.md (the
section is named at each test). After the tests, a witness for the hypotheses of every statement. -/

namespace Sys2Proof.Tests

/- One theorem after another: the long kernel evaluations below would hold too many threads at once. -/
set_option Elab.async false

open Sys2Proof Sys2Proof.Machine

/-! ### WellFormed -/

/-- R72: `N` has 64 bits, so no frame says a payload of `2^64` bytes. -/
theorem test_feed_payload_too_long : wellFormed (.feed (List.replicate (2 ^ 64) 0)) = false := by
  simp only [wellFormed, payloadFits, List.length_replicate, Nat.lt_irrefl, decide_false]

theorem test_finalize_payload_too_long : wellFormed (.finalize (List.replicate (2 ^ 64) 0)) = false := by
  simp only [wellFormed, payloadFits, List.length_replicate, Nat.lt_irrefl, decide_false]

/-! ### Decoding: words written out from R71, R72, R74 and R80, R81 (2.9, P7) -/

theorem test_decode_reset : decode (.frame [0x00]) = some .reset := by decide +kernel

theorem test_decode_feed_abc :
    decode (.frame [0x01, 0x03, 0, 0, 0, 0, 0, 0, 0, 0x61, 0x62, 0x63]) =
      some (.feed [0x61, 0x62, 0x63]) := by decide +kernel

theorem test_decode_finalize_a :
    decode (.frame [0x02, 0x01, 0, 0, 0, 0, 0, 0, 0, 0x61]) = some (.finalize [0x61]) := by decide +kernel

/-- `N` is little-endian: `00 01` is 256 bytes. -/
theorem test_decode_length_little_endian :
    decodeFrame ([0x01, 0x00, 0x01, 0, 0, 0, 0, 0, 0] ++ List.replicate 256 0x55) =
      .command (.feed (List.replicate 256 0x55)) 265 := by decide +kernel

theorem test_decode_ff : decode (.ridx 0b001101) = some (.ff 13) := by decide +kernel
theorem test_decode_gg : decode (.ridx 0b010001) = some (.gg 1) := by decide +kernel
theorem test_decode_hh : decode (.ridx 0b101010) = some (.hh 10) := by decide +kernel
theorem test_decode_ii : decode (.ridx 0b111111) = some (.ii 15) := by decide +kernel

theorem test_decode_reserved : decodeFrame [0x03] = .reservedOpcode 0x03 := by decide +kernel
theorem test_decode_length_field_incomplete : decodeFrame [0x02, 0, 0, 0] = .incomplete := by decide +kernel

/-- A stream of three frames (2.9, P2): only the first is read. -/
theorem test_decode_first_of_three :
    decodeFrame [0x00, 0x01, 0x01, 0, 0, 0, 0, 0, 0, 0, 0x61, 0x02, 0, 0, 0, 0, 0, 0, 0, 0] =
      .command .reset 1 := by decide +kernel

theorem test_table_feed : decodeTableWord 8 0x01 = some (.feed []) := by decide +kernel
theorem test_table_gg : decodeTableWord 8 0x10 = some (.gg 0) := by decide +kernel
theorem test_table_ff_six_bits : decodeTableWord 6 0x00 = some (.ff 0) := by decide +kernel

/-- The round microprogram is `FF 0` to `II 63` (P7). -/
theorem test_round_program_ends : roundProgram[15]? = some (.ff 15) ∧ roundProgram[16]? = some (.gg 0) ∧
    roundProgram[63]? = some (.ii 15) := by decide +kernel

/-- Program P2's command stream (R83, section 3). -/
theorem test_assemble_p2 :
    assemble [.reset, .feed (.text ['a']), .feed (.hex ['6', '2', '6', '3']), .finalize .empty] =
      some [0x00, 0x01, 1, 0, 0, 0, 0, 0, 0, 0, 0x61, 0x01, 2, 0, 0, 0, 0, 0, 0, 0, 0x62, 0x63,
        0x02, 0, 0, 0, 0, 0, 0, 0, 0] := by decide +kernel

/-! ### The round micro-operations: the whole traces T1 and T2 of 2.3, as R117 asks -/

theorem test_trace_T1_FF : traceHolds 0x80 0 0
    ⟨0x67452301, 0xefcdab89, 0x98badcfe, 0x10325476⟩ t1Ff = true := by decide +kernel

theorem test_trace_T1_GG : traceHolds 0x80 0 16
    (lastOf t1Ff) t1Gg = true := by decide +kernel

theorem test_trace_T1_HH : traceHolds 0x80 0 32
    (lastOf t1Gg) t1Hh = true := by decide +kernel

theorem test_trace_T1_II : traceHolds 0x80 0 48
    (lastOf t1Hh) t1Ii = true := by decide +kernel

theorem test_trace_T2_FF : traceHolds 0x80636261 0x18 0
    ⟨0x67452301, 0xefcdab89, 0x98badcfe, 0x10325476⟩ t2Ff = true := by decide +kernel

theorem test_trace_T2_GG : traceHolds 0x80636261 0x18 16
    (lastOf t2Ff) t2Gg = true := by decide +kernel

theorem test_trace_T2_HH : traceHolds 0x80636261 0x18 32
    (lastOf t2Gg) t2Hh = true := by decide +kernel

theorem test_trace_T2_II : traceHolds 0x80636261 0x18 48
    (lastOf t2Hh) t2Ii = true := by decide +kernel

/-! ### The commands -/

/-- A state in the middle of a session: three bytes "xyz" are buffered. -/
def midSession : State := feed [0x78, 0x79, 0x7a] State.reset

/-- A state at the session bound: `LEN = 2^61 - 1` (R11), so `BUFLEN = 63`. -/
def fullSession : State := { State.reset with len := 2 ^ 61 - 1, buflen := 63 }

/-- The session and the responses an outcome leaves. -/
def sessionAfter : Host.Outcome State Fault Refusal → Option (Session × List Byte)
  | .next s => some (s.session, s.resp)
  | .fault _ => none
  | .refused _ => none

/-- R140's worked example, P5. -/
theorem test_reset_abandons_a_session :
    sessionAfter (exec .reset midSession) = some (Session.initial, []) := by decide +kernel

/-- R140: the bytes of `BUF` are not cleared. -/
theorem test_reset_keeps_buf_bytes : (midSession.resetSession.buf.read 0, midSession.resetSession.buflen) =
    (0x78, 0) := by decide +kernel

/-- 2.7, group F2: step 1 takes 1 byte, step 2 takes 128, step 3 takes 1. -/
theorem test_feed_three_steps :
    sessionAfter (exec (.feed (List.replicate 130 0x61)) (feed (List.replicate 63 0x61) State.reset)) =
      some (⟨⟨0x550c1879, 0x3b6b020a, 0x99416581, 0x1f3a0cf4⟩, 193, 1, [0x61]⟩, []) := by decide +kernel

/-- 2.7, group F1, row 5: the buffer fills to exactly 64 and drains at once (R148(c)). -/
theorem test_feed_fills_and_drains :
    sessionAfter (exec (.feed [0x61]) (feed (List.replicate 63 0x61) State.reset)) =
      some (⟨⟨0x89d4ff56, 0x125cd962, 0x69cade33, 0x0033e325⟩, 64, 0, []⟩, []) := by decide +kernel

/-- 2.8, `n = 56`: the largest padding, a tail of two blocks (R169(c)). -/
theorem test_finalize_56 :
    (sessionAfter (exec (.finalize (List.replicate 56 0x61)) State.reset)).map (fun r => some r.2) =
      some (ByteExpr.text "3b0c8ac703f828b04c6c197006d17218".toList).bytes := by decide +kernel

/-- Program P2, its last command: "abc" in two feeds. -/
theorem test_finalize_abc_in_pieces :
    (sessionAfter (exec (.finalize []) (feed [0x62, 0x63] (feed [0x61] State.reset)))).map
      (fun r => some r.2) = some (ByteExpr.text "900150983cd24fb0d6963f7d28e17f72".toList).bytes := by decide +kernel

/-- 2.9, last row: at the bound one more byte is refused and nothing more is accepted. -/
theorem test_feed_refused_at_the_bound :
    (match exec (.feed [0x61]) fullSession with | .refused r => some r | _ => none) =
      some .lengthBound := by decide +kernel

theorem test_feed_nothing_at_the_bound :
    (match exec (.feed []) fullSession with | .next t => some t.session | _ => none) =
      some fullSession.session := by decide +kernel

/-- 2.5: the length field at the bound is `f8 ff ff ff ff ff ff ff`. -/
theorem test_length_field_at_the_bound :
    (pad (2 ^ 61 - 1)).drop 57 = [0xf8, 0xff, 0xff, 0xff, 0xff, 0xff, 0xff, 0xff] := by decide +kernel

/-- 2.6, sixth row. -/
theorem test_hexrender_order :
    some (hexRender ⟨0x00000001, 0x00000100, 0x00010000, 0x01000000⟩) =
      (ByteExpr.text "01000000000100000000010000000001".toList).bytes := by decide +kernel

/-- 2.9: `00 03` is `RESET`, then a refusal at offset 1. -/
theorem test_step_reset_then_reserved :
    (match step (hostSend [0x00, 0x03] State.reset) with
      | .next t => (match step t with | .refused r => some (t.cpos, r) | _ => none)
      | _ => none) = some (1, .reservedOpcode 0x03) := by decide +kernel

/-- A table word of each code space runs as the first instruction after reset. -/
theorem test_fetch_word_ii : workAfter (step (State.reset.withFetchWord 8 0x30)) =
    workAfter (exec (.ii 0) State.reset) := by decide +kernel

theorem test_fetch_word_finalize :
    (match step (State.reset.withFetchWord 8 0x02) with | .next t => t.resp.length | _ => 0) = 32 := by decide +kernel

/-! ### Witnesses: for every statement with hypotheses, a state and operands that meet them -/

theorem reset_meets_invariant : StateInv State.reset := ⟨by decide +kernel, by decide +kernel, by decide +kernel,
    by decide +kernel⟩
theorem midSession_meets_invariant : StateInv midSession := ⟨by decide +kernel, by decide +kernel, by decide +kernel,
    by decide +kernel⟩
theorem fullSession_meets_invariant : StateInv fullSession := ⟨by decide +kernel, by decide +kernel, by decide +kernel,
    by decide +kernel⟩

/-- A payload of `n` bytes completes as a `FEED` from three buffered bytes. -/
theorem midSession_feed (data : List Byte) (h : data.length ≤ 64) :
    ∃ t, exec (.feed data) midSession = .next t :=
  ⟨_, exec_feed_eq (Nat.le_trans (Nat.add_le_add_left h _) (by decide +kernel)) (by decide +kernel)⟩

theorem midSession_finalize (data : List Byte) (h : data.length ≤ 64) :
    ∃ t, exec (.finalize data) midSession = .next t :=
  ⟨_, exec_finalize_eq (Nat.le_trans (Nat.add_le_add_left h _) (by decide +kernel)) (by decide +kernel)⟩

theorem reset_feed (data : List Byte) (h : data.length ≤ 64) :
    ∃ t, exec (.feed data) State.reset = .next t :=
  ⟨_, exec_feed_eq (Nat.le_trans (Nat.add_le_add_left h _) (by decide +kernel)) (by decide +kernel)⟩

theorem reset_finalize (data : List Byte) (h : data.length ≤ 64) :
    ∃ t, exec (.finalize data) State.reset = .next t :=
  ⟨_, exec_finalize_eq (Nat.le_trans (Nat.add_le_add_left h _) (by decide +kernel)) (by decide +kernel)⟩

theorem witness_ResetCommandReinitializesTheSession :
    (∃ t, exec .reset midSession = .next t) ∧ ∃ t, exec (.finalize [0x61]) midSession = .next t :=
  ⟨⟨_, rfl⟩, midSession_finalize _ (by decide +kernel)⟩

theorem witness_FourResetsGiveOneState : ∃ t, exec (.finalize [0x61]) midSession = .next t :=
  midSession_finalize _ (by decide +kernel)

theorem witness_MixingFunctionsBitByBit : (31 : Nat) < 32 := by decide +kernel

theorem witness_RotateMovesEveryBit : 0 < 31 ∧ 31 < 32 ∧ (31 : Nat) < 32 := by decide +kernel

theorem witness_RotateAndWordTables : roundG (roundCode 2 9) = 0 := by decide +kernel

theorem witness_RoundFFReplacesOneWorkingWord :
    ∃ s : State, s.work = ⟨0x67452301, 0xefcdab89, 0x98badcfe, 0x10325476⟩ ∧ s.m.get 0 = 0x00000080 :=
  ⟨inRound 0x80 0 ⟨0x67452301, 0xefcdab89, 0x98badcfe, 0x10325476⟩, rfl, by decide +kernel⟩

theorem witness_RoundGGReplacesOneWorkingWord :
    ∃ s : State, s.work = ⟨0xf56c7cf1, 0xd6819c6a, 0x5aa53f75, 0x374943a7⟩ ∧ s.m.get 1 = 0x00000000 :=
  ⟨inRound 0x80 0 ⟨0xf56c7cf1, 0xd6819c6a, 0x5aa53f75, 0x374943a7⟩, rfl, by decide +kernel⟩

theorem witness_RoundHHReplacesOneWorkingWord :
    ∃ s : State, s.work = ⟨0x13707036, 0xa2205f1f, 0x1c31c384, 0xae7813db⟩ ∧ s.m.get 5 = 0x00000000 :=
  ⟨inRound 0x80 0 ⟨0x13707036, 0xa2205f1f, 0x1c31c384, 0xae7813db⟩, rfl, by decide +kernel⟩

theorem witness_RoundIIReplacesOneWorkingWord :
    ∃ s : State, s.work = ⟨0x3f55edfd, 0xca7d2dbd, 0x68d84ea2, 0x22a31f54⟩ ∧ s.m.get 0 = 0x00000080 :=
  ⟨inRound 0x80 0 ⟨0x3f55edfd, 0xca7d2dbd, 0x68d84ea2, 0x22a31f54⟩, rfl, by decide +kernel⟩

theorem witness_LoadBlockIsLittleEndian : (List.replicate 64 (0x61 : Byte)).length = 64 := by decide +kernel

theorem witness_CompressFoldsBlocksInOrder : 64 * 2 ≤ (List.replicate 128 (0x61 : Byte)).length := by decide +kernel

/-- A block completes here, and none does in the second. -/
theorem witness_FeedCompletesAndKeepsItsInvariants :
    (StateInv midSession ∧ midSession.len.toNat + (List.replicate 61 (0x61 : Byte)).length ≤ maxTotalBytes) ∧
      midSession.buflen.toNat + (List.replicate 60 (0x61 : Byte)).length < 64 :=
  ⟨⟨midSession_meets_invariant, by decide +kernel⟩, by decide +kernel⟩

/-- Three buffered bytes and a payload of 62: 61 top the buffer up, 1 remains. Address 2 is outside, address
0 takes the remainder, address 63 takes the last top-up byte. -/
theorem witness_FeedStoresOnlyItsBytes :
    StateInv midSession ∧ (∃ t, exec (.feed (List.replicate 62 0x61)) midSession = .next t) ∧
      feedStoresAt 62 midSession 2 = false ∧ 0 < (62 - topUpCount 62 midSession) % 64 ∧
      (62 - topUpCount 62 midSession) % 64 ≤ 63 ∧ midSession.buflen.toNat ≤ 63 ∧
      63 < midSession.buflen.toNat + topUpCount 62 midSession :=
  ⟨midSession_meets_invariant, midSession_feed _ (by decide +kernel), by decide +kernel, by decide +kernel,
    by decide +kernel, by decide +kernel, by decide +kernel⟩

/-- One payload for each clause: 60 bytes and 61 on three buffered bytes, 64 and 63 on an empty buffer. -/
theorem witness_FeedCornerCases :
    (∃ t, exec (.feed (List.replicate 60 0x61)) midSession = .next t) ∧
    (midSession.buflen.toNat ≠ 0 ∧ midSession.buflen.toNat + 60 < 64) ∧
    (∃ t, exec (.feed (List.replicate 61 0x61)) midSession = .next t) ∧
    midSession.buflen.toNat + 61 = 64 ∧
    (∃ t, exec (.feed (List.replicate 64 0x61)) State.reset = .next t) ∧
    (∃ t, exec (.feed (List.replicate 63 0x61)) State.reset = .next t) ∧ State.reset.buflen.toNat = 0 ∧
    ∃ t u v, StateInv midSession ∧ exec .reset midSession = .next t ∧ exec (.feed [0x61]) t = .next u ∧
      exec (.feed [0x61]) State.reset = .next v :=
  ⟨midSession_feed _ (by decide +kernel), by decide +kernel, midSession_feed _ (by decide +kernel), by decide +kernel,
    reset_feed _ (by decide +kernel), reset_feed _ (by decide +kernel), by decide +kernel,
    ⟨_, _, _, midSession_meets_invariant, rfl, exec_feed_eq (by decide +kernel) (by decide +kernel),
      exec_feed_eq (by decide +kernel) (by decide +kernel)⟩⟩

theorem witness_ChunkingInvariance :
    midSession.resetSession.buf.wf = true ∧ midSession.resetSession.session = Session.initial ∧
      ([[0x61], [], [0x62, 0x63]] : List (List Byte)).flatten.length ≤ maxTotalBytes ∧
      (([[0x61], [], [0x62, 0x63]] : List (List Byte)).flatten ++ [0x64]).length ≤ maxTotalBytes := by decide +kernel

theorem witness_SessionBoundIsEnforced :
    StateInv fullSession ∧ ∃ s : State, idle s ∧ decodeFrame s.cs = .command (.feed [0x61]) 10 ∧
      maxTotalBytes < s.len.toNat + ([0x61] : List Byte).length :=
  ⟨fullSession_meets_invariant, hostSend [0x01, 1, 0, 0, 0, 0, 0, 0, 0, 0x61] fullSession, rfl, by decide +kernel,
    by decide +kernel⟩

theorem witness_PadLengthIsTheLeastThatFits : 1 ≤ 64 ∧ (64 : Nat) ≤ 64 := by decide +kernel

theorem witness_PaddingAndTailShape : (2 ^ 61 - 1 : BitVec 64).toNat ≤ maxTotalBytes := by decide +kernel

theorem witness_FinalizeEmitsTheDigestAndResets :
    StateInv midSession ∧ midSession.len.toNat + ([0x61] : List Byte).length ≤ maxTotalBytes ∧
      maxTotalBytes < fullSession.len.toNat + ([0x61] : List Byte).length :=
  ⟨midSession_meets_invariant, by decide +kernel, by decide +kernel⟩

theorem witness_FinalizeIsFeedThenFinalizeOfNothing :
    ∃ u, exec (.feed (List.replicate 62 0x61)) midSession = .next u :=
  midSession_feed _ (by decide +kernel)

/-- The first clause, for a command and for a round; the second. -/
theorem witness_ResponsesAreThirtyTwoHexDigits :
    ((∀ data, Instr.feed [0x61] ≠ .finalize data) ∧ ∃ t, exec (.feed [0x61]) midSession = .next t) ∧
    ((∀ data, Instr.ii 15 ≠ .finalize data) ∧ ∃ t, exec (.ii 15) midSession = .next t) ∧
    ∃ t, exec (.finalize [0x61]) midSession = .next t :=
  ⟨⟨fun _ h => (nomatch h), midSession_feed _ (by decide +kernel)⟩, ⟨fun _ h => (nomatch h), _, rfl⟩,
    midSession_finalize _ (by decide +kernel)⟩

theorem witness_DigestOfAnySplitMessage :
    midSession.resetSession.buf.wf = true ∧ midSession.resetSession.session = Session.initial ∧
      (([[0x61], [0x62]] : List (List Byte)).flatten ++ [0x63]).length ≤ maxTotalBytes := by decide +kernel

theorem witness_FinalizeLeavesTheCoreAsNew :
    StateInv midSession ∧ (∃ t, exec (.finalize [0x61]) midSession = .next t) ∧
      ∃ v, runInstrs [.feed [0x61], .finalize []] State.reset = .next v :=
  ⟨midSession_meets_invariant, ⟨_, rfl⟩, ⟨_, rfl⟩⟩

theorem witness_EvalIgnoresTheSessionBefore :
    midSession.buf.wf = true ∧ midSession.resetSession.buf.wf = true ∧
      midSession.resetSession.session = Session.initial ∧ ([0x61] : List Byte).length ≤ maxTotalBytes := by decide +kernel

theorem witness_FinalizeOutAppendsThirtyTwo : ∃ t, exec (.finalize [0x61]) midSession = .next t :=
  midSession_finalize _ (by decide +kernel)

theorem witness_DecodeInvertsEncode :
    wellFormed (.feed [0x61]) = true ∧
      encode (.feed [0x61]) = .frame [0x01, 1, 0, 0, 0, 0, 0, 0, 0, 0x61] := by decide +kernel

theorem witness_FramesAreReadFromTheirOwnBytes :
    decodeFrame [0x01, 1, 0, 0, 0, 0, 0, 0, 0, 0x61, 0x00] = .command (.feed [0x61]) 10 := by decide +kernel

theorem witness_StepRunsTheDecodedInstruction :
    (∃ t, (hostSend [0x00] midSession).round = none ∧
      decodeFrame (hostSend [0x00] midSession).cs = .command .reset 1 ∧
      exec .reset (hostSend [0x00] midSession) = .next t) ∧
    (∃ r, decodeFrame (hostSend [0x01, 1, 0, 0, 0, 0, 0, 0, 0, 0x61] fullSession).cs =
        .command (.feed [0x61]) 10 ∧ exec (.feed [0x61]) fullSession = .refused r) ∧
    (∃ r, exec (.feed []) { State.reset with buflen := 64 } = .fault r) ∧
    (State.reset.startTransform Digest.init State.reset.m).round = some 0 :=
  ⟨⟨_, rfl, by decide +kernel, rfl⟩, ⟨_, by decide +kernel, exec_feed_refused (by decide +kernel)⟩,
    ⟨_, exec_feed_overfull (by decide +kernel) (by decide +kernel)⟩, rfl⟩

theorem witness_ReservedOpcodesAreRefused :
    idle (hostSend [0x03] midSession) ∧ (hostSend [0x03] midSession).cs = 0x03 :: [] ∧
      3 ≤ (0x03 : Byte).toNat :=
  ⟨rfl, by decide +kernel, by decide +kernel⟩

theorem witness_IncompleteFramesWait :
    (idle (hostSend [0x01, 1, 0, 0, 0, 0, 0, 0, 0] midSession) ∧ wellFormed (.feed [0x61]) = true ∧
      encode (.feed [0x61]) = .frame [0x01, 1, 0, 0, 0, 0, 0, 0, 0, 0x61] ∧
      (hostSend [0x01, 1, 0, 0, 0, 0, 0, 0, 0] midSession).cs =
        ([0x01, 1, 0, 0, 0, 0, 0, 0, 0, 0x61] : List Byte).take 9) ∧
    (hostSend [0x01, 1, 0, 0, 0, 0, 0, 0, 0, 0x61, 0x00] midSession).cs =
      [0x01, 1, 0, 0, 0, 0, 0, 0, 0, 0x61] ++ [0x00] ∧
    ∃ t, exec (.feed [0x61]) (hostSend [0x01, 1, 0, 0, 0, 0, 0, 0, 0, 0x61, 0x00] midSession) = .next t :=
  ⟨⟨rfl, by decide +kernel, by decide +kernel, by decide +kernel⟩, by decide +kernel, ⟨_, rfl⟩⟩

/-- One stream for each clause: a reserved opcode, a payload short by one byte, one byte past the bound. -/
theorem witness_DecoderChecksInOrder :
    ((hostSend [0x03, 1, 0, 0, 0, 0, 0, 0, 0] midSession).cs = 0x03 :: ([1, 0, 0, 0, 0, 0, 0, 0] ++ [])) ∧
    ((hostSend [0x02, 1, 0, 0, 0, 0, 0, 0, 0] midSession).cs = 0x02 :: ([1, 0, 0, 0, 0, 0, 0, 0] ++ []) ∧
      ([] : List Byte).length < leNat [1, 0, 0, 0, 0, 0, 0, 0]) ∧
    ((hostSend [0x01, 1, 0, 0, 0, 0, 0, 0, 0, 0x61] fullSession).cs =
        0x01 :: ([1, 0, 0, 0, 0, 0, 0, 0] ++ [0x61]) ∧
      leNat [1, 0, 0, 0, 0, 0, 0, 0] ≤ ([0x61] : List Byte).length ∧
      maxTotalBytes < fullSession.len.toNat + leNat [1, 0, 0, 0, 0, 0, 0, 0]) := by decide +kernel

theorem witness_StepKeepsTheInvariant :
    StateInv (hostSend [0x02, 0, 0, 0, 0, 0, 0, 0, 0] midSession) ∧
      ∃ t, step (hostSend [0x02, 0, 0, 0, 0, 0, 0, 0, 0] midSession) = .next t :=
  ⟨⟨by decide +kernel, by decide +kernel, by decide +kernel,
    by decide +kernel⟩, ⟨_, rfl⟩⟩

theorem witness_StepsNeverStopInsideACommand :
    idle (hostSend [0x00] midSession) ∧
      ∃ t, Host.Core.run Sys2Proof.core 1 (hostSend [0x00] midSession) = .next t :=
  ⟨rfl, ⟨_, rfl⟩⟩

/-- One frame past the bound, as a step. -/
theorem step_past_the_bound {s : State} {data : List Byte} {n : Nat} (hr : s.round = none)
    (hd : decodeFrame s.cs = .command (.feed data) n) (hb : maxTotalBytes < s.len.toNat + data.length) :
    step s = .refused .lengthBound := by
  rw [step_command hr hd, exec_feed_refused hb]
  rfl

/-- A step that faults, in a state that no run reaches. -/
theorem step_overfull :
    step (hostSend [0x01, 0, 0, 0, 0, 0, 0, 0, 0] { State.reset with buflen := 64 }) = .fault .carryOverfull := by
  rw [step_command (i := .feed []) (n := 9) rfl (by decide +kernel),
    exec_feed_overfull (by decide +kernel) (by decide +kernel)]
  rfl

theorem witness_OnlyTheTwoVerdictsStopAStep :
    (StateInv (hostSend [0xff] midSession) ∧
      step (hostSend [0xff] midSession) = .refused (.reservedOpcode 0xff)) ∧
    StateInv (hostSend [0x01, 1, 0, 0, 0, 0, 0, 0, 0, 0x61] fullSession) ∧
      step (hostSend [0x01, 1, 0, 0, 0, 0, 0, 0, 0, 0x61] fullSession) = .refused .lengthBound :=
  ⟨⟨⟨by decide +kernel, by decide +kernel, by decide +kernel,
    by decide +kernel⟩, rfl⟩,
    ⟨by decide +kernel, by decide +kernel, by decide +kernel,
    by decide +kernel⟩,
    step_past_the_bound rfl (n := 10) (data := [0x61]) (by decide +kernel) (by decide +kernel)⟩

theorem witness_StreamsMoveInOrder :
    ∃ t, step (hostSend [0x02, 0, 0, 0, 0, 0, 0, 0, 0, 0x00] midSession) = .next t := ⟨_, rfl⟩

theorem witness_OnlyItsWritersChangeTheDigestState :
    ∃ t, step { midSession with h := ⟨0, 0, 0, 0⟩, cs := [0x00] } = .next t ∧
      t.h ≠ ({ midSession with h := ⟨0, 0, 0, 0⟩, cs := [0x00] } : State).h :=
  ⟨_, rfl, by decide +kernel⟩

/-- Two states with the same session and different bytes above the fill. -/
theorem witness_BytesAboveTheFillNeverMatter :
    StateInv State.reset ∧ StateInv midSession.resetSession ∧
      State.reset.session = midSession.resetSession.session ∧ State.reset.buf ≠ midSession.resetSession.buf ∧
      ∃ t, exec (.finalize [0x61]) State.reset = .next t :=
  ⟨reset_meets_invariant, ⟨by decide +kernel, by decide +kernel, by decide +kernel,
    by decide +kernel⟩, by decide +kernel, by decide +kernel, reset_finalize _ (by decide +kernel)⟩

theorem witness_EveryRunSettlesOrIsRefused :
    StateInv (hostSend [0x00, 0x00, 0x02] midSession) ∧ idle (hostSend [0x00, 0x00, 0x02] midSession) :=
  ⟨⟨by decide +kernel, by decide +kernel, by decide +kernel,
    by decide +kernel⟩, rfl⟩

/-- A `RESET`, and a `FEED` of nothing, behind the refused frame. -/
theorem witness_HostGoesOnAfterALengthRefusal :
    (∃ s : State, idle s ∧ decodeFrame s.cs = .command (.feed [0x61]) 10 ∧ step s = .refused .lengthBound ∧
      s.cs.drop 10 = 0x00 :: []) ∧
    ∃ s t : State, idle s ∧ decodeFrame s.cs = .command (.feed [0x61]) 10 ∧ step s = .refused .lengthBound ∧
      decodeFrame (s.cs.drop 10) = .command (.feed []) 9 ∧ exec (.feed []) (skipRefusedFrame s) = .next t :=
  ⟨⟨hostSend [0x01, 1, 0, 0, 0, 0, 0, 0, 0, 0x61, 0x00] fullSession, rfl, by decide +kernel,
    step_past_the_bound rfl (n := 10) (data := [0x61]) (by decide +kernel) (by decide +kernel),
    by decide +kernel⟩,
  ⟨hostSend [0x01, 1, 0, 0, 0, 0, 0, 0, 0, 0x61, 0x01, 0, 0, 0, 0, 0, 0, 0, 0] fullSession, _, rfl,
    by decide +kernel,
    step_past_the_bound rfl (n := 10) (data := [0x61]) (by decide +kernel) (by decide +kernel),
    by decide +kernel, exec_feed_eq (by decide +kernel) (by decide +kernel)⟩⟩

/-- Core 0 runs a `RESET`, core 1 waits, core 2 is refused, core 3 faults. -/
def fourCores : System :=
  [hostSend [0x00] midSession, State.reset, hostSend [0x03] midSession,
    hostSend [0x01, 0, 0, 0, 0, 0, 0, 0, 0] { State.reset with buflen := 64 }]

theorem witness_CoresAreIndependent :
    ((0 : Nat) ≠ 1 ∧ (0 : Nat) ≠ 2 ∧ (0 : Nat) ≠ 3) ∧ (∃ a, stepCore 0 fourCores = .next a) ∧
      (∃ b, stepCore 1 fourCores = .next b) ∧ stepCore 2 fourCores = .refused (.reservedOpcode 0x03) ∧
      stepCore 3 fourCores = .fault .carryOverfull ∧ ∃ s, fourCores[3]? = some s :=
  ⟨by decide, ⟨_, rfl⟩, ⟨_, rfl⟩, stepCore_refused.mpr ⟨_, rfl, rfl⟩,
    stepCore_fault.mpr ⟨_, rfl, step_overfull⟩, ⟨_, rfl⟩⟩

end Sys2Proof.Tests
end

section
/-! PROOFS. What every step keeps of the state (spec/10_state.md): the invariant of R11, R12, R13 at reset and
across a step, and the writers of the digest state (R10). -/

namespace Sys2Proof.Machine

/-! ### The invariant, one lemma per operation on the state -/

/-- The invariant speaks of `BUF`, `LEN` and `BUFLEN` alone. -/
theorem StateInv.of_carry_eq {s t : State} (hs : StateInv s) (hbuf : t.buf = s.buf) (hlen : t.len = s.len)
    (hfill : t.buflen = s.buflen) : StateInv t where
  bufCanonical := hbuf ▸ hs.bufCanonical
  carryShort := hfill ▸ hs.carryShort
  carryIsLenMod := by rw [hfill, hlen, hs.carryIsLenMod]
  lenBounded := hlen ▸ hs.lenBounded

/-- A session reset establishes the invariant from any canonical memory, since it never clears `BUF` (R41). -/
theorem stateInv_resetSession {s : State} (hw : s.buf.wf = true) : StateInv s.resetSession where
  bufCanonical := hw
  carryShort := by simp
  carryIsLenMod := by simp
  lenBounded := by simp

/-- Within the session bound `LEN` counts the payload exactly: the 64-bit addition does not wrap (R11). -/
theorem toNat_add_ofNat_of_le_maxTotalBytes {len : BitVec 64} {n : Nat} (hb : len.toNat + n ≤ maxTotalBytes) :
    (len + BitVec.ofNat 64 n).toNat = len.toNat + n := by
  unfold maxTotalBytes at hb
  rw [BitVec.toNat_add, BitVec.toNat_ofNat]
  omega

theorem feed_keeps_stateInv {s : State} {data : List Byte} (hs : StateInv s)
    (hb : s.len.toNat + data.length ≤ maxTotalBytes) : StateInv (feed data s) := by
  obtain ⟨hw, hlen, hfill, -, -⟩ := feed_spec data s hs.bufCanonical hs.carryShort
  have hlenNat : (feed data s).len.toNat = s.len.toNat + data.length := by
    rw [hlen, toNat_add_ofNat_of_le_maxTotalBytes hb]
  have hmod := hs.carryIsLenMod
  exact ⟨hw, by omega, by omega, by omega⟩

/-- `FINALIZE` stores to `BUF` only in its `FEED` step (R160, R168). -/
@[simp] theorem finalize_buf (data : List Byte) (s : State) : (finalize data s).buf = (feed data s).buf := by
  simp [finalize, renderAndReset, compressTail]

@[simp] theorem finalize_len (data : List Byte) (s : State) : (finalize data s).len = 0 := rfl

@[simp] theorem finalize_buflen (data : List Byte) (s : State) : (finalize data s).buflen = 0 := rfl

@[simp] theorem finalize_h (data : List Byte) (s : State) : (finalize data s).h = Digest.init := rfl

/-- The fed memory is canonical, and `FINALIZE` ends with the session reset (R167). -/
theorem finalize_keeps_stateInv {s : State} {data : List Byte} (hs : StateInv s) : StateInv (finalize data s) := by
  obtain ⟨hw, -⟩ := feed_spec data s hs.bufCanonical hs.carryShort
  exact (stateInv_resetSession hw).of_carry_eq (finalize_buf data s) (finalize_len data s)
    (finalize_buflen data s)

/-- Every instruction that answers a next state keeps the invariant. -/
theorem exec_keeps_stateInv {i : Instr} {s t : State} (hs : StateInv s) (h : exec i s = .next t) : StateInv t := by
  obtain ⟨-, rfl⟩ | ⟨data, -, hb, -, rfl⟩ | ⟨data, -, -, -, rfl⟩ | ⟨w, rfl, -⟩ := exec_next_cases h
  · exact stateInv_resetSession hs.bufCanonical
  · exact feed_keeps_stateInv hs hb
  · exact finalize_keeps_stateInv hs
  · exact hs.of_carry_eq rfl rfl rfl

/-! ### The digest state under `FEED` -/

@[simp] theorem State.appendBytes_h (s : State) (data : List Byte) : (s.appendBytes data).h = s.h := by
  obtain ⟨buf, buflen, h⟩ := s.appendBytes_frame data
  rw [h]

/-- A carry buffer that is not full is not drained (R143). -/
theorem drainIfFull_of_ne {s : State} (h : s.buflen.toNat ≠ 64) : drainIfFull s = s := by
  simp [drainIfFull, carryFull, Config.bufCap, h]

/-- Fewer than 64 bytes make no direct block (R144). -/
theorem directBlocks_of_length_lt {rest : List Byte} (s : State) (h : rest.length < 64) :
    directBlocks rest s = s := by
  rw [directBlocks, Nat.div_eq_of_lt h, compress_zero]

/-- A top-up that does not reach 64 bytes compresses nothing (R143). -/
theorem topUp_h_of_lt {data : List Byte} {s : State} (h : s.buflen.toNat + data.length < 64) :
    (topUp data s).h = s.h := by
  unfold topUp
  split
  · have htake : (data.take (topUpCount data.length s)).length ≤ data.length := List.length_take_le' _ _
    have hfill := s.appendBytes_buflen (data.take (topUpCount data.length s)) (by omega)
    rw [drainIfFull_of_ne (by omega), State.appendBytes_h]
  · rfl

/-- A `FEED` that completes no block leaves the digest state alone, whatever the memory holds (R10). -/
theorem feed_h_of_lt {data : List Byte} {s : State} (h : s.buflen.toNat + data.length < 64) :
    (feed data s).h = s.h := by
  have hrest : (data.drop (topUpCount data.length s)).length < 64 := by
    rw [List.length_drop]; omega
  have htop : (topUp data (s.addLen data.length)).h = s.h := topUp_h_of_lt h
  rw [feed, keepRemainder, State.appendBytes_h, directBlocks_of_length_lt _ hrest, htop]

/-- The instructions that can change the digest state, and what the two resets leave there (R10). -/
theorem exec_h_writers {i : Instr} {s t : State} (h : exec i s = .next t) (hne : t.h ≠ s.h) :
    (i = .reset ∧ t.h = Digest.init) ∨
    (∃ data, i = .finalize data ∧ t.h = Digest.init) ∨
    (∃ data, i = .feed data ∧ 64 ≤ s.buflen.toNat + data.length) := by
  obtain ⟨hi, rfl⟩ | ⟨data, hi, -, -, rfl⟩ | ⟨data, hi, -, -, rfl⟩ | ⟨w, rfl, -⟩ := exec_next_cases h
  · exact .inl ⟨hi, rfl⟩
  · exact .inr (.inr ⟨data, hi, Nat.le_of_not_lt fun hlt => hne (feed_h_of_lt hlt)⟩)
  · exact .inr (.inl ⟨data, hi, rfl⟩)
  · exact absurd rfl hne

/-! ### The statements -/

/-- Settles O38: a step is a wait, a command frame or a round, and each is an instruction that keeps the
invariant followed by a move of the command position or of the sequencer. -/
theorem stepKeepsTheInvariant : Obligations.StepKeepsTheInvariant := by
  intro s t hs h
  obtain ⟨-, rfl⟩ | ⟨i, n, u, -, hu, rfl⟩ | ⟨r, u, -, hu, rfl⟩ := step_next_cases h
  · exact hs
  · exact (exec_keeps_stateInv hs hu).of_carry_eq rfl rfl rfl
  · exact (exec_keeps_stateInv hs hu).of_carry_eq rfl rfl rfl

/-- Settles O42: only a command frame can change `H`; a round of an open `TRANSFORM` writes the working
words alone. -/
theorem onlyItsWritersChangeTheDigestState : Obligations.OnlyItsWritersChangeTheDigestState := by
  intro s t h hne
  obtain ⟨-, rfl⟩ | ⟨i, n, u, hf, hu, rfl⟩ | ⟨r, u, -, hu, rfl⟩ := step_next_cases h
  · exact absurd rfl hne
  · obtain ⟨rfl, hinit⟩ | ⟨data, rfl, hinit⟩ | ⟨data, rfl, hfill⟩ := exec_h_writers hu hne
    · exact .inl ⟨n, hf, hinit⟩
    · exact .inr (.inl ⟨data, n, hf, hinit⟩)
    · exact .inr (.inr ⟨data, n, hf, hfill⟩)
  · obtain rfl : s.setWork (roundOp s.m r s.work) = u := by
      simpa [exec_decodeRound] using hu
    exact absurd rfl hne

/-- Settles O2: the reset state is its own session reset, on the empty memory. -/
theorem resetStateMeetsTheInvariant : Obligations.ResetStateMeetsTheInvariant :=
  ⟨stateInv_resetSession (s := State.reset) Memory.wf_reset, rfl⟩

end Sys2Proof.Machine
end

section
/-! PROOFS. The carry buffer's memory, its streams and the command boundary (spec/20_memory.md): which bytes of
`BUF` a `FEED` stores (R41), that a run rests between commands only (R47, R52), the order of the two streams
(R51), and that the bytes above the fill are never read (R50). -/

namespace Sys2Proof.Machine

/-! ### What `FEED` stores to `BUF` -/

@[simp] theorem drainIfFull_buf (s : State) : (drainIfFull s).buf = s.buf := by
  unfold drainIfFull
  split
  · simp
  · rfl

@[simp] theorem directBlocks_buf (rest : List Byte) (s : State) : (directBlocks rest s).buf = s.buf := by
  simp [directBlocks]

@[simp] theorem directBlocks_buflen (rest : List Byte) (s : State) :
    (directBlocks rest s).buflen = s.buflen := by
  simp [directBlocks]

theorem topUpCount_of_empty {n : Nat} {s : State} (h : s.buflen.toNat = 0) : topUpCount n s = 0 := by
  simp [topUpCount, carryNonEmpty, h]

theorem topUpCount_of_nonempty {n : Nat} {s : State} (h : s.buflen.toNat ≠ 0) :
    topUpCount n s = min (64 - s.buflen.toNat) n := by
  simp [topUpCount, carryNonEmpty, h]

/-- What every address of `BUF` reads after the top-up (R143): a drain stores nothing. -/
theorem topUp_read {s : State} (data : List Byte) (hw : s.buf.wf = true) (hc : s.buflen.toNat < 64) (a : Nat) :
    (topUp data s).buf.read a =
      if s.buflen.toNat ≤ a ∧ a < s.buflen.toNat + topUpCount data.length s then
        data.getD (a - s.buflen.toNat) 0
      else s.buf.read a := by
  by_cases hempty : s.buflen.toNat = 0
  · have hnone : topUp data s = s := by simp [topUp, carryNonEmpty, hempty]
    rw [hnone, topUpCount_of_empty hempty, if_neg (by omega)]
  · have hcount := topUpCount_of_nonempty (n := data.length) hempty
    have hlen : (data.take (topUpCount data.length s)).length = topUpCount data.length s := by
      rw [List.length_take]; omega
    have hbuf : (topUp data s).buf = (s.appendBytes (data.take (topUpCount data.length s))).buf := by
      simp [topUp, carryNonEmpty, hempty]
    rw [hbuf, State.appendBytes_read s _ hw (by omega), hlen]
    split
    · next hin =>
      have hlt : a - s.buflen.toNat < topUpCount data.length s := by omega
      simp [List.getD_eq_getElem?_getD, hlt]
    · rfl

/-- What every address of `BUF` reads after the remainder step (R145): it keeps the last `length mod 64` bytes. -/
theorem keepRemainder_read {s : State} (rest : List Byte) (hw : s.buf.wf = true)
    (hfit : s.buflen.toNat + rest.length % 64 ≤ 64) (a : Nat) :
    (keepRemainder rest s).buf.read a =
      if s.buflen.toNat ≤ a ∧ a < s.buflen.toNat + rest.length % 64 then
        rest.getD (rest.length - rest.length % 64 + (a - s.buflen.toNat)) 0
      else s.buf.read a := by
  have hcut : 64 * (rest.length / 64) = rest.length - rest.length % 64 := by omega
  have hkept : (rest.drop (64 * (rest.length / 64))).length = rest.length % 64 := by
    rw [List.length_drop]; omega
  rw [keepRemainder, State.appendBytes_read s _ hw (by omega), hkept]
  simp only [List.getD_eq_getElem?_getD, List.getElem?_drop, hcut]

/-- What every address of `BUF` reads after a `FEED` (R143, R145): the remainder's bytes from 0 on, over the
top-up's bytes from `BUFLEN` on, over the old bytes. -/
theorem feed_read {s : State} (data : List Byte) (hw : s.buf.wf = true) (hc : s.buflen.toNat < 64) (a : Nat) :
    (feed data s).buf.read a =
      if a < (data.length - topUpCount data.length s) % 64 then
        data.getD (data.length - (data.length - topUpCount data.length s) % 64 + a) 0
      else if s.buflen.toNat ≤ a ∧ a < s.buflen.toNat + topUpCount data.length s then
        data.getD (a - s.buflen.toNat) 0
      else s.buf.read a := by
  obtain ⟨hw1, -, hcount, hfill, hor, -, -⟩ := topUp_spec data s hw hc
  have htop := topUp_read (s := s.addLen data.length) data hw hc a
  have hrest : (data.drop (topUpCount data.length s)).length = data.length - topUpCount data.length s :=
    List.length_drop
  rw [feed, keepRemainder_read _ (by simpa using hw1) (by rw [hrest, directBlocks_buflen]; omega), hrest,
    directBlocks_buflen, directBlocks_buf, htop]
  by_cases hrem : a < (data.length - topUpCount data.length s) % 64
  · have hempty : (topUp data (s.addLen data.length)).buflen.toNat = 0 := by omega
    have hpos : topUpCount data.length s + (data.length - topUpCount data.length s -
        (data.length - topUpCount data.length s) % 64 + a) =
        data.length - (data.length - topUpCount data.length s) % 64 + a := by omega
    rw [if_pos (by omega), if_pos hrem, hempty, Nat.sub_zero]
    simp only [List.getD_eq_getElem?_getD, List.getElem?_drop, hpos]
  · rw [if_neg (by omega), if_neg hrem]
    rfl

/-- The one next state of a `FEED` (R146). -/
theorem eq_feed_of_exec {data : List Byte} {s t : State} (h : exec (.feed data) s = .next t) :
    t = feed data s := by
  obtain ⟨⟨⟩, -⟩ | ⟨_, ⟨rfl⟩, -, -, rfl⟩ | ⟨_, ⟨⟩, -⟩ | ⟨w, -, j, hj⟩ := exec_next_cases h
  · rfl
  · simp at hj

/-- Outside the stored addresses neither the remainder nor the top-up reaches. -/
theorem feedStoresAt_eq_false {n : Nat} {s : State} {a : Nat} :
    feedStoresAt n s a = false ↔
      ¬(s.buflen.toNat ≤ a ∧ a < s.buflen.toNat + topUpCount n s) ∧ ¬a < (n - topUpCount n s) % 64 := by
  simp [feedStoresAt]

/-! ### The sequencer and the streams under an instruction -/

/-- `COMPRESS` leaves the sequencer and the streams alone (R131). -/
theorem compress_streams (src : List Byte) (count : Nat) (s : State) :
    (compress src count s).round = s.round ∧ (compress src count s).cs = s.cs ∧
      (compress src count s).cpos = s.cpos ∧ (compress src count s).resp = s.resp := by
  obtain ⟨_, _, _, h⟩ := compress_frame src count s
  rw [h]
  exact ⟨rfl, rfl, rfl, rfl⟩

/-- `FINALIZE` answers with the digest state its padding step leaves, and leaves the sequencer and the command
stream alone (R166, R168). -/
theorem finalize_streams (data : List Byte) (s : State) :
    (finalize data s).round = s.round ∧ (finalize data s).cs = s.cs ∧ (finalize data s).cpos = s.cpos ∧
      (finalize data s).resp = s.resp ++ hexRender (compressTail (feed data s)).h := by
  obtain ⟨fround, fcs, fcpos, fresp⟩ := feed_frame data s
  obtain ⟨cround, ccs, ccpos, cresp⟩ :=
    compress_streams (tailOf (feed data s)) ((tailOf (feed data s)).length / 64) (feed data s)
  exact ⟨cround.trans fround, ccs.trans fcs, ccpos.trans fcpos,
    congrArg (· ++ hexRender (compressTail (feed data s)).h) (cresp.trans fresp)⟩

/-- No instruction moves the sequencer or the command stream by itself; the response stream keeps what it
holds and gains at most one rendered digest (R51). -/
theorem exec_streams {i : Instr} {s t : State} (h : exec i s = .next t) :
    t.round = s.round ∧ t.cs = s.cs ∧ t.cpos = s.cpos ∧
      (t.resp = s.resp ∨ ∃ d, t.resp = s.resp ++ hexRender d) := by
  obtain ⟨-, rfl⟩ | ⟨data, -, -, -, rfl⟩ | ⟨data, -, -, -, rfl⟩ | ⟨w, rfl, -⟩ := exec_next_cases h
  · exact ⟨rfl, rfl, rfl, .inl rfl⟩
  · obtain ⟨hround, hcs, hcpos, hresp⟩ := feed_frame data s
    exact ⟨hround, hcs, hcpos, .inl hresp⟩
  · obtain ⟨hround, hcs, hcpos, hresp⟩ := finalize_streams data s
    exact ⟨hround, hcs, hcpos, .inr ⟨_, hresp⟩⟩
  · exact ⟨rfl, rfl, rfl, .inl rfl⟩

/-! ### Frames at the command position -/

/-- A frame is fetched from the command stream, with no `TRANSFORM` open (R52, R75). -/
theorem fetch_eq_frame {s : State} {i : Instr} {n : Nat} (h : fetch s = .frame i n) :
    s.round = none ∧ decodeFrame s.cs = .command i n := by
  unfold fetch at h
  split at h
  · simp at h
  · next hround =>
    unfold fetchFrame at h
    split at h
    · simp at h
    · simp at h
    · simp at h
    · next hd =>
      obtain ⟨rfl, rfl⟩ := Fetched.frame.inj h
      exact ⟨hround, hd⟩

/-- A round is fetched only while a `TRANSFORM` stands open (R20). -/
theorem fetch_eq_round {s : State} {r : RIdx} (h : fetch s = .round r) : s.round = some r := by
  unfold fetch at h
  split at h
  · next hround => rw [hround, Fetched.round.inj h]
  · unfold fetchFrame at h
    split at h <;> simp at h

/-- A whole frame has arrived: its length is within the stream (R79). -/
theorem decodeFrame_command_length_le {cs : List Byte} {i : Instr} {n : Nat}
    (h : decodeFrame cs = .command i n) : n ≤ cs.length := by
  obtain ⟨rest, rfl, -, rfl⟩ | ⟨op, mk, rest, rfl, -, h8, hpay, -, rfl⟩ := decodeFrame_command_cases h
  · simp
  · rw [List.length_cons]; omega

/-! ### Runs -/

/-- What every step keeps, every run keeps. -/
theorem run_keeps {P : State → Prop} (hstep : ∀ s t, P s → step s = .next t → P t) {k : Nat} {s t : State}
    (hs : P s) (h : Host.Core.run Sys2Proof.core k s = .next t) : P t := by
  induction k generalizing s with
  | zero =>
    obtain rfl : s = t := Host.Outcome.next.inj h
    exact hs
  | succ k ih =>
    simp only [Host.Core.run] at h
    split at h
    · next u hu => exact ih (hstep s u hs hu) h
    · simp at h
    · simp at h

/-- A step from a state between commands runs a whole command or waits (R52). -/
theorem step_keeps_idle {s t : State} (hs : idle s) (h : step s = .next t) : idle t := by
  obtain ⟨-, rfl⟩ | ⟨i, n, u, -, hu, rfl⟩ | ⟨r, u, hf, -, rfl⟩ := step_next_cases h
  · exact hs
  · obtain ⟨hround, -⟩ := exec_streams hu
    exact hround.trans hs
  · exact absurd (hs.symm.trans (fetch_eq_round hf)) (by simp)

/-! ### Commands see the session alone -/

/-- `FEED` is a function of the session (R50). -/
theorem feed_session_congr {s s' : State} (data : List Byte) (hs : StateInv s) (hs' : StateInv s')
    (heq : s.session = s'.session) : (feed data s).session = (feed data s').session := by
  obtain ⟨hh, hlen, hfill, hbuf⟩ := Session.mk.inj heq
  obtain ⟨-, l, f, d, b⟩ := feed_spec data s hs.bufCanonical hs.carryShort
  obtain ⟨-, l', f', d', b'⟩ := feed_spec data s' hs'.bufCanonical hs'.carryShort
  have hfill' : (feed data s).buflen = (feed data s').buflen := BitVec.eq_of_toNat_eq (by rw [f, f', hfill])
  rw [State.session, State.session, d, d', l, l', b, b', hfill', hh, hlen, hfill, hbuf]

/-- Between commands the tail is the buffered bytes and the padding (R163). -/
theorem tailOf_eq {s : State} (hs : StateInv s) : tailOf s = s.buffered ++ pad s.len := by
  rw [tailOf, State.buffered, hs.carryIsLenMod]

/-- The digest state after the padding step is a function of the session (R50). -/
theorem compressTail_h_congr {s s' : State} (hs : StateInv s) (hs' : StateInv s')
    (heq : s.session = s'.session) : (compressTail s).h = (compressTail s').h := by
  obtain ⟨hh, hlen, -, hbuf⟩ := Session.mk.inj heq
  rw [compressTail, compressTail, compress_h, compress_h, tailOf_eq hs, tailOf_eq hs', hh, hlen, hbuf]

/-- A session reset leaves the initial session, whatever `BUF` holds (R41, R140). -/
theorem resetSession_session (s : State) : s.resetSession.session = Session.initial := rfl

/-- `FINALIZE` ends with the session reset (R167). -/
theorem finalize_session (data : List Byte) (s : State) : (finalize data s).session = Session.initial := rfl

/-! ### The statements -/

/-- Settles O17: every address reads as the remainder, the top-up or the old memory says, in this order. -/
theorem feedStoresOnlyItsBytes : Obligations.FeedStoresOnlyItsBytes := by
  intro data s t hs h a
  obtain rfl := eq_feed_of_exec h
  have hread := feed_read data hs.bufCanonical hs.carryShort a
  refine ⟨fun hout => ?_, fun hrem => ?_, fun hrem hlo hhi => ?_⟩
  · obtain ⟨htop, hrem⟩ := feedStoresAt_eq_false.mp hout
    rw [hread, if_neg hrem, if_neg htop]
  · rw [hread, if_pos hrem]
  · rw [hread, if_neg (by omega), if_pos ⟨hlo, hhi⟩]

/-- Settles O39: every step keeps the sequencer closed, so every run does. -/
theorem stepsNeverStopInsideACommand : Obligations.StepsNeverStopInsideACommand :=
  fun _ _ _ hs h => run_keeps (fun _ _ => step_keeps_idle) hs h

/-- Settles O41: a command's bytes are consumed after it has answered; waiting and a round of an open
`TRANSFORM` move neither stream. -/
theorem streamsMoveInOrder : Obligations.StreamsMoveInOrder := by
  intro s t h
  obtain ⟨-, rfl⟩ | ⟨i, n, u, hf, hu, rfl⟩ | ⟨r, u, -, hu, rfl⟩ := step_next_cases h
  · exact ⟨.inl rfl, 0, Nat.zero_le _, rfl, rfl⟩
  · obtain ⟨-, hd⟩ := fetch_eq_frame hf
    obtain ⟨-, hcs, hcpos, hresp⟩ := exec_streams hu
    refine ⟨hresp.imp_right fun ⟨d, hout⟩ => ⟨hexRender d, hexRender_length d, hout⟩,
      n, decodeFrame_command_length_le hd, ?_, ?_⟩
    · rw [State.consume_cs, hcs]
    · rw [State.consume_cpos, hcpos]
  · obtain rfl : s.setWork (roundOp s.m r s.work) = u := by
      simpa [exec_decodeRound] using hu
    exact ⟨.inl rfl, 0, Nat.zero_le _, rfl, rfl⟩

/-- Settles O43: `FEED` and the answer of `FINALIZE` are functions of the session, the two resets leave the
initial one, and a round does not touch it. -/
theorem bytesAboveTheFillNeverMatter : Obligations.BytesAboveTheFillNeverMatter := by
  intro i s s' t hs hs' heq h
  obtain ⟨-, hlen, -, -⟩ := Session.mk.inj heq
  obtain ⟨rfl, rfl⟩ | ⟨data, rfl, hb, -, rfl⟩ | ⟨data, rfl, hb, -, rfl⟩ | ⟨w, rfl, j, hi⟩ := exec_next_cases h
  · exact ⟨s'.resetSession, [], rfl, (resetSession_session s).trans (resetSession_session s').symm,
      by simp, by simp⟩
  · obtain ⟨-, -, -, hresp⟩ := feed_frame data s
    obtain ⟨-, -, -, hresp'⟩ := feed_frame data s'
    exact ⟨feed data s', [], exec_feed_eq (hlen ▸ hb) hs'.carryShort, feed_session_congr data hs hs' heq,
      by simp [hresp], by simp [hresp']⟩
  · obtain ⟨-, -, -, hresp⟩ := finalize_streams data s
    obtain ⟨-, -, -, hresp'⟩ := finalize_streams data s'
    have hdigest := compressTail_h_congr (feed_keeps_stateInv hs hb) (feed_keeps_stateInv hs' (hlen ▸ hb))
      (feed_session_congr data hs hs' heq)
    exact ⟨finalize data s', _, exec_finalize_eq (hlen ▸ hb) hs'.carryShort,
      (finalize_session data s).trans (finalize_session data s').symm, hresp, hdigest ▸ hresp'⟩
  · obtain ⟨w', hw'⟩ : ∃ w', exec i s' = .next (s'.setWork w') := by
      obtain rfl | rfl | rfl | rfl := hi <;> exact ⟨_, rfl⟩
    exact ⟨s'.setWork w', [], hw', heq, by simp, by simp⟩

end Sys2Proof.Machine
end

section
/-! PROOFS. The encoding (spec/30_encoding.md): the length field and the frames (R70 to R75, R82), what waits and
what is refused (R77 to R79), who answers (R76), and the step that runs what the decoder reads (R75, R20). -/

namespace Sys2Proof.Machine

/-! ### The length field -/

/-- A little-endian value of `k` bytes is below `256 ^ k` (R5). -/
theorem leNat_lt (bs : List Byte) : leNat bs < 256 ^ bs.length := by
  induction bs with
  | nil => simp [leNat]
  | cons b bs ih =>
    have hb := b.isLt
    rw [leNat, List.length_cons, Nat.pow_succ]
    omega

/-- Bytes of one number are told from the little-endian value they have (R5). -/
theorem leNat_injective {bs cs : List Byte} (hlen : bs.length = cs.length) (h : leNat bs = leNat cs) :
    bs = cs := by
  induction bs generalizing cs with
  | nil => exact (List.eq_nil_of_length_eq_zero hlen.symm).symm
  | cons b bs ih =>
    cases cs with
    | nil => simp at hlen
    | cons c cs =>
      have hb := b.isLt
      have hc := c.isLt
      rw [leNat, leNat] at h
      rw [BitVec.eq_of_toNat_eq (show b.toNat = c.toNat by omega),
        ih (Nat.succ.inj hlen) (by omega)]

/-- The value of eight bytes fits `N` (R72). -/
theorem leNat_lt_two_pow_64 {field : List Byte} (h8 : field.length = 8) : leNat field < 2 ^ 64 := by
  have h := leNat_lt field
  rw [h8] at h
  omega

/-- Eight bytes are the little-endian spelling of their value (R44, R73). -/
theorem leBytes_leNat_64 {field : List Byte} (h8 : field.length = 8) :
    leBytes (BitVec.ofNat 64 (leNat field)) 8 = field := by
  refine leNat_injective (by simp [h8]) ?_
  rw [leNat_leBytes_64, BitVec.toNat_ofNat, Nat.mod_eq_of_lt (leNat_lt_two_pow_64 h8)]

/-- The field `N` says the payload's length, where 64 bits can (R72). -/
theorem leNat_lengthField {data : List Byte} (hfit : data.length < 2 ^ 64) :
    leNat (leBytes (BitVec.ofNat 64 data.length) 8) = data.length := by
  rw [leNat_leBytes_64, BitVec.toNat_ofNat, Nat.mod_eq_of_lt hfit]

end Sys2Proof.Machine

namespace Sys2Proof

open Sys2Proof.Machine

/-! ### Payload frames -/

/-- The opcodes that carry a payload, each with the command it stands for (R72, R74). -/
def payloadCommand (op : Byte) (mk : List Byte → Instr) : Prop :=
  (op = opcFeed ∧ mk = Instr.feed) ∨ (op = opcFinalize ∧ mk = Instr.finalize)

theorem decodeFrame_payloadCommand {op : Byte} {mk : List Byte → Instr} (h : payloadCommand op mk)
    (rest : List Byte) : decodeFrame (op :: rest) = decodePayload mk rest := by
  obtain ⟨rfl, rfl⟩ | ⟨rfl, rfl⟩ := h
  · exact decodeFrame_feed rest
  · exact decodeFrame_finalize rest

theorem encode_payloadCommand {op : Byte} {mk : List Byte → Instr} (h : payloadCommand op mk)
    (data : List Byte) : encode (mk data) = .frame (encodePayload op data) := by
  obtain ⟨rfl, rfl⟩ | ⟨rfl, rfl⟩ := h <;> rfl

theorem wellFormed_payloadCommand {op : Byte} {mk : List Byte → Instr} (h : payloadCommand op mk)
    (data : List Byte) : wellFormed (mk data) = true ↔ data.length < 2 ^ 64 := by
  obtain ⟨rfl, rfl⟩ | ⟨rfl, rfl⟩ := h <;> exact decide_eq_true_iff

/-- A whole payload is read as `N` says, whatever follows it (R72, R75). -/
theorem decodePayload_append (mk : List Byte → Instr) {field data : List Byte} (rest : List Byte)
    (h8 : field.length = 8) (hN : leNat field = data.length) :
    decodePayload mk (field ++ (data ++ rest)) = .command (mk data) (9 + data.length) := by
  have hfield : (field ++ (data ++ rest)).take 8 = field := List.take_left' h8
  have hpay : (field ++ (data ++ rest)).drop 8 = data ++ rest := List.drop_left' h8
  obtain ⟨h, -⟩ | ⟨-, h, -⟩ | ⟨-, -, h⟩ := decodePayload_cases mk (field ++ (data ++ rest))
  · rw [List.length_append] at h; omega
  · rw [hfield, hN, List.length_append, List.length_append] at h; omega
  · rw [h, hfield, hpay, hN, List.take_left]

/-- A proper part of the bytes after the opcode is not a command yet (R79). -/
theorem decodePayload_take_of_lt (mk : List Byte → Instr) {field data : List Byte} {k : Nat}
    (h8 : field.length = 8) (hN : leNat field = data.length) (hk : k < 8 + data.length) :
    decodePayload mk ((field ++ data).take k) = .incomplete := by
  have hlen : ((field ++ data).take k).length = k := by
    rw [List.length_take, List.length_append]; omega
  obtain ⟨-, h⟩ | ⟨-, -, h⟩ | ⟨hfull, hle, -⟩ := decodePayload_cases mk ((field ++ data).take k)
  · exact h
  · exact h
  · have hfield : ((field ++ data).take k).take 8 = field := by
      rw [List.take_take, Nat.min_eq_left (by omega), List.take_left' h8]
    rw [hfield, hN] at hle
    omega

/-! ### Frames -/

/-- Every frame of a well-formed command, by its format (R71, R72). -/
theorem encode_frame_cases {i : Instr} {bytes : List Byte} (hw : wellFormed i = true)
    (h : encode i = .frame bytes) :
    (i = .reset ∧ bytes = [opcReset]) ∨
    ∃ op mk data, payloadCommand op mk ∧ i = mk data ∧ bytes = encodePayload op data ∧
      data.length < 2 ^ 64 := by
  cases i with
  | reset => exact .inl ⟨rfl, (Encoding.frame.inj h).symm⟩
  | feed data =>
    have hop : payloadCommand opcFeed .feed := .inl ⟨rfl, rfl⟩
    exact .inr ⟨_, _, data, hop, rfl, (Encoding.frame.inj h).symm, (wellFormed_payloadCommand hop data).mp hw⟩
  | finalize data =>
    have hop : payloadCommand opcFinalize .finalize := .inr ⟨rfl, rfl⟩
    exact .inr ⟨_, _, data, hop, rfl, (Encoding.frame.inj h).symm, (wellFormed_payloadCommand hop data).mp hw⟩
  | ff j | gg j | hh j | ii j => cases h

/-- A stream that starts with the frame of a command decodes to it (R75). -/
theorem decodeFrame_of_encode {i : Instr} {bytes : List Byte} (hw : wellFormed i = true)
    (h : encode i = .frame bytes) (rest : List Byte) :
    decodeFrame (bytes ++ rest) = .command i bytes.length := by
  obtain ⟨rfl, rfl⟩ | ⟨op, mk, data, hop, rfl, rfl, hfit⟩ := encode_frame_cases hw h
  · exact decodeFrame_reset rest
  · rw [Laws.FrameLength.encodePayload_length, encodePayload, List.cons_append, List.append_assoc,
      decodeFrame_payloadCommand hop,
      decodePayload_append mk rest (leBytes_length _ 8) (leNat_lengthField hfit)]

/-- A proper part of a command's frame is no command, and not refused either (R79). -/
theorem decodeFrame_take_of_lt {i : Instr} {bytes : List Byte} {k : Nat} (hw : wellFormed i = true)
    (h : encode i = .frame bytes) (hk : k < bytes.length) :
    decodeFrame (bytes.take k) = .noFrame ∨ decodeFrame (bytes.take k) = .incomplete := by
  cases k with
  | zero => exact .inl (by rw [List.take_zero, decodeFrame_nil])
  | succ k =>
    obtain ⟨rfl, rfl⟩ | ⟨op, mk, data, hop, rfl, rfl, hfit⟩ := encode_frame_cases hw h
    · simp at hk
    · rw [Laws.FrameLength.encodePayload_length] at hk
      rw [encodePayload, List.take_succ_cons, decodeFrame_payloadCommand hop]
      exact .inr (decodePayload_take_of_lt mk (leBytes_length _ 8) (leNat_lengthField hfit) (by omega))

/-- A frame that decodes is the encoding of its command, which is well formed: eight bytes say no length that
`N` cannot hold, and there is one way to say it (R72, R82). -/
theorem encode_of_decodeFrame {cs : List Byte} {i : Instr} {n : Nat} (h : decodeFrame cs = .command i n) :
    wellFormed i = true ∧ encode i = .frame (cs.take n) := by
  obtain ⟨rest, rfl, rfl, rfl⟩ | ⟨op, mk, rest, rfl, hop, h8, hpay, rfl, rfl⟩ := decodeFrame_command_cases h
  · exact ⟨rfl, rfl⟩
  · have hfield : (rest.take 8).length = 8 := List.length_take_of_le h8
    have hdata : ((rest.drop 8).take (leNat (rest.take 8))).length = leNat (rest.take 8) :=
      List.length_take_of_le (by rw [List.length_drop]; exact hpay)
    refine ⟨(wellFormed_payloadCommand hop _).mpr (hdata.symm ▸ leNat_lt_two_pow_64 hfield), ?_⟩
    rw [encode_payloadCommand hop, encodePayload, hdata, leBytes_leNat_64 hfield, ← List.take_add,
      show 9 + leNat (rest.take 8) = 8 + leNat (rest.take 8) + 1 by omega, List.take_succ_cons]

theorem decodeFrame_command_pos {cs : List Byte} {i : Instr} {n : Nat} (h : decodeFrame cs = .command i n) :
    0 < n := by
  obtain ⟨-, -, -, rfl⟩ | ⟨-, -, -, -, -, -, -, -, rfl⟩ := decodeFrame_command_cases h <;> omega

/-- The decoder's refusal names the first byte, and it is a reserved one (R78). -/
theorem decodeFrame_eq_reservedOpcode {cs : List Byte} {op : Byte} (h : decodeFrame cs = .reservedOpcode op) :
    3 ≤ op.toNat ∧ ∃ rest, cs = op :: rest := by
  have hpay : ∀ (mk : List Byte → Instr) (rest : List Byte), decodePayload mk rest ≠ .reservedOpcode op := by
    intro mk rest
    obtain ⟨-, h'⟩ | ⟨-, -, h'⟩ | ⟨-, -, h'⟩ := decodePayload_cases mk rest <;> simp [h']
  cases cs with
  | nil => simp at h
  | cons b rest =>
    obtain rfl | rfl | rfl | ⟨h3, -⟩ := opcode_cases b
    · simp [decodeFrame_reset] at h
    · exact absurd (decodeFrame_feed rest ▸ h) (hpay _ _)
    · exact absurd (decodeFrame_finalize rest ▸ h) (hpay _ _)
    · obtain rfl := FrameVerdict.reservedOpcode.inj (decodeFrame_reserved rest h3 ▸ h)
      exact ⟨h3, rest, rfl⟩

/-! ### Round codes -/

/-- The decoder reads a round back from its code: the group selects the type (R80, R81). -/
theorem decode_encode_of_ridx {i : Instr} {code : RIdx} (h : encode i = .ridx code) :
    decode (encode i) = some i := by
  cases i with
  | reset | feed data | finalize data => cases h
  | ff j | gg j | hh j | ii j => simp [decode, encode, decodeRound]

/-- A command's frame, read whole, gives the command back. -/
theorem decode_encode_of_frame {i : Instr} {bytes : List Byte} (hw : wellFormed i = true)
    (h : encode i = .frame bytes) : decode (encode i) = some i := by
  have hd := decodeFrame_of_encode hw h []
  rw [List.append_nil] at hd
  simp [h, decode, hd]

end Sys2Proof

namespace Sys2Proof.Machine

/-! ### What stops an instruction and a step -/

/-- `FINALIZE` past the session bound is refused (R168, R191). -/
theorem exec_finalize_refused {data : List Byte} {s : State} (hb : maxTotalBytes < s.len.toNat + data.length) :
    exec (.finalize data) s = .refused .lengthBound := by
  obtain ⟨-, h⟩ | ⟨h, -⟩ | ⟨h, -⟩ := acceptPayload_cases data s (finalize data)
  · exact h
  · omega
  · omega

/-- The one refusal of an instruction is the session bound (R77, R191). -/
theorem exec_refused_cases {i : Instr} {s : State} {r : Refusal} (h : exec i s = .refused r) :
    r = .lengthBound ∧ ∃ data, (i = .feed data ∨ i = .finalize data) ∧
      maxTotalBytes < s.len.toNat + data.length := by
  have haccept : ∀ (data : List Byte) (effect : State → State), acceptPayload data s effect = .refused r →
      r = .lengthBound ∧ maxTotalBytes < s.len.toNat + data.length := by
    intro data effect h
    obtain ⟨hb, h'⟩ | ⟨-, -, h'⟩ | ⟨-, -, h'⟩ := acceptPayload_cases data s effect
    · exact ⟨Host.Outcome.refused.inj (h.symm.trans h'), hb⟩
    · simp [h'] at h
    · simp [h'] at h
  cases i with
  | feed data =>
    obtain ⟨hr, hb⟩ := haccept data _ h
    exact ⟨hr, data, .inl rfl, hb⟩
  | finalize data =>
    obtain ⟨hr, hb⟩ := haccept data _ h
    exact ⟨hr, data, .inr rfl, hb⟩
  | reset | ff j | gg j | hh j | ii j => cases h

/-- A reserved opcode is fetched from the command stream, with no `TRANSFORM` open (R52, R78). -/
theorem fetch_eq_reserved {s : State} {op : Byte} (h : fetch s = .reserved op) :
    s.round = none ∧ decodeFrame s.cs = .reservedOpcode op := by
  unfold fetch at h
  split at h
  · cases h
  · next hround =>
    unfold fetchFrame at h
    split at h
    · cases h
    · cases h
    · next hd =>
      obtain rfl := Fetched.reserved.inj h
      exact ⟨hround, hd⟩
    · cases h

/-- Every refusal of a step: a reserved opcode, or a frame past the session bound (R191). -/
theorem step_refused_cases {s : State} {r : Refusal} (h : step s = .refused r) :
    (∃ op, fetch s = .reserved op ∧ r = .reservedOpcode op) ∨
    (∃ data i n, fetch s = .frame i n ∧ (i = .feed data ∨ i = .finalize data) ∧
      maxTotalBytes < s.len.toNat + data.length ∧ r = .lengthBound) := by
  unfold step at h
  split at h
  · cases h
  · next op hf => exact .inl ⟨op, hf, (Host.Outcome.refused.inj h).symm⟩
  · next i n hf =>
    obtain ⟨hr, data, hi, hb⟩ := exec_refused_cases (onNext_refused h)
    exact .inr ⟨data, i, n, hf, hi, hb, hr⟩
  · next i hf => simp [exec_decodeRound, onNext] at h

/-- With nothing whole at the command position the step keeps the state (R79, R201). -/
theorem step_of_no_command {s : State} (h : idle s)
    (hd : decodeFrame s.cs = .noFrame ∨ decodeFrame s.cs = .incomplete) : step s = .next s := by
  obtain hd | hd := hd <;> simp [step, fetch_idle h, fetchFrame, hd]

/-- A reserved opcode at the command position is refused by name (R78). -/
theorem step_reserved {s : State} {op : Byte} {rest : List Byte} (h : idle s) (hcs : s.cs = op :: rest)
    (h3 : 3 ≤ op.toNat) : step s = .refused (.reservedOpcode op) := by
  have hd := hcs ▸ decodeFrame_reserved rest h3
  simp [step, fetch_idle h, fetchFrame, hd]

/-! ### The answer -/

/-- The digits of R165 are `0` to `9` and `a` to `f`. -/
theorem hexdigit_ascii (n : BitVec 4) :
    (0x30 ≤ (hexdigit n).toNat ∧ (hexdigit n).toNat ≤ 0x39) ∨
      (0x61 ≤ (hexdigit n).toNat ∧ (hexdigit n).toNat ≤ 0x66) := by
  revert n; decide

/-- `HEXRENDER` writes hexadecimal digits only (R164). -/
theorem mem_hexRender {h : Digest} {c : Byte} (hc : c ∈ hexRender h) : ∃ n, c = hexdigit n := by
  obtain ⟨b, -, hb⟩ := List.mem_flatMap.mp hc
  obtain rfl | hb := List.mem_cons.mp hb
  · exact ⟨_, rfl⟩
  · exact ⟨_, List.mem_singleton.mp hb⟩

/-- The one next state of a `FINALIZE` (R168). -/
theorem eq_finalize_of_exec {data : List Byte} {s t : State} (h : exec (.finalize data) s = .next t) :
    t = finalize data s := by
  obtain ⟨⟨⟩, -⟩ | ⟨_, ⟨⟩, -⟩ | ⟨_, ⟨rfl⟩, -, -, rfl⟩ | ⟨w, -, j, hj⟩ := exec_next_cases h
  · rfl
  · simp at hj

/-- No instruction but `FINALIZE` answers (R76). -/
theorem exec_resp_of_ne_finalize {i : Instr} {s t : State} (hi : ∀ data, i ≠ .finalize data)
    (h : exec i s = .next t) : t.resp = s.resp := by
  obtain ⟨-, rfl⟩ | ⟨data, -, -, -, rfl⟩ | ⟨data, hfin, -⟩ | ⟨w, rfl, -⟩ := exec_next_cases h
  · rfl
  · obtain ⟨-, -, -, hresp⟩ := feed_frame data s
    exact hresp
  · exact absurd hfin (hi data)
  · rfl

/-! ### The statements -/

/-- Settles O31: a round is read back from its code's group and position, a command from its frame, whose field `N`
says the payload's length. -/
theorem decodeInvertsEncode : Obligations.DecodeInvertsEncode := by
  intro i hw
  refine ⟨?_, fun bytes rest h => decodeFrame_of_encode hw h rest⟩
  cases h : encode i with
  | frame bytes => exact h ▸ decode_encode_of_frame hw h
  | ridx code => exact h ▸ decode_encode_of_ridx h

/-- Settles O20: the invariant keeps `LEN` within the bound, so no bytes more are within it too; past it the bound
is checked before anything else. -/
theorem sessionBoundIsEnforced : Obligations.SessionBoundIsEnforced := by
  refine ⟨fun s hs => ⟨⟨_, exec_feed_eq hs.lenBounded hs.carryShort⟩,
    ⟨_, exec_finalize_eq hs.lenBounded hs.carryShort⟩⟩, fun data n s hidle hd hb => ?_⟩
  obtain hd | hd := hd
  · rw [step_command hidle hd, exec_feed_refused hb, onNext]
  · rw [step_command hidle hd, exec_finalize_refused hb, onNext]

/-- Settles O26: the bytes `FINALIZE` adds are one rendered digest. -/
theorem responsesAreThirtyTwoHexDigits : Obligations.ResponsesAreThirtyTwoHexDigits := by
  refine ⟨fun i s t hi h => exec_resp_of_ne_finalize hi h, fun data s t h => ?_⟩
  obtain rfl := eq_finalize_of_exec h
  obtain ⟨-, -, -, hresp⟩ := finalize_streams data s
  refine ⟨finalize_session data s, _, hresp, hexRender_length _, fun c hc => ?_⟩
  obtain ⟨n, rfl⟩ := mem_hexRender hc
  exact hexdigit_ascii n

/-- Settles O32: the bytes of a frame are the encoding of its command, and an encoding decodes alike whatever
follows it. -/
theorem framesAreReadFromTheirOwnBytes : Obligations.FramesAreReadFromTheirOwnBytes := by
  intro cs i n h
  obtain ⟨hw, henc⟩ := encode_of_decodeFrame h
  have hle := decodeFrame_command_length_le h
  refine ⟨decodeFrame_command_pos h, hle, fun more => ?_, henc⟩
  rw [decodeFrame_of_encode hw henc more, List.length_take_of_le hle]

/-- Settles O35: the decoder looks at the first byte before anything else, and no instruction is refused for its
opcode. -/
theorem reservedOpcodesAreRefused : Obligations.ReservedOpcodesAreRefused := by
  intro s op rest hidle hcs
  refine ⟨⟨fun h => ?_, step_reserved hidle hcs⟩, fun h3 more => ?_⟩
  · obtain ⟨op', hf, hr⟩ | ⟨_, _, _, -, -, -, hr⟩ := step_refused_cases h
    · obtain rfl := Refusal.reservedOpcode.inj hr
      obtain ⟨-, hd⟩ := fetch_eq_reserved hf
      obtain ⟨h3, -⟩ := decodeFrame_eq_reservedOpcode hd
      exact h3
    · cases hr
  · have hcs' : (hostSend more s).cs = op :: (rest ++ more) := by
      rw [hostSend, hcs, List.cons_append]
    exact step_reserved (s := hostSend more s) hidle hcs' h3

/-- Settles O36: a proper part of a frame is no command yet; the whole frame decodes to its command, which leaves
the command stream to the step that consumes it. -/
theorem incompleteFramesWait : Obligations.IncompleteFramesWait := by
  intro s i bytes hidle hw henc
  refine ⟨fun k hk hcs => ?_, fun rest t hcs h => ?_⟩
  · exact step_of_no_command hidle (hcs ▸ decodeFrame_take_of_lt hw henc hk)
  · obtain ⟨-, htcs, htcpos, -⟩ := exec_streams h
    have hd := hcs ▸ decodeFrame_of_encode hw henc rest
    rw [step_command hidle hd, h, onNext, State.consume, htcs, htcpos, hcs, List.drop_left]

/-- Settles O33: the decoders evaluated on the words. -/
theorem specWordsDecode : Obligations.SpecWordsDecode := by
  unfold Obligations.SpecWordsDecode
  decide

/-- Settles O34: a frame's command runs and its bytes are consumed; a round of an open `TRANSFORM` always runs, and
the sequencer moves on. -/
theorem stepRunsTheDecodedInstruction : Obligations.StepRunsTheDecodedInstruction := by
  refine ⟨fun s i n hround hd => ⟨fun t h => ?_, fun r h => ?_, fun r h => ?_⟩,
    fun s i hround => ⟨_, exec_decodeRound i s, step_round hround⟩⟩
  · rw [step_command hround hd, h, onNext, State.consume]
  · rw [step_command hround hd, h, onNext]
  · rw [step_command hround hd, h, onNext]

end Sys2Proof.Machine
end

section
/-! PROOFS. The Round Engine (spec/40_round_engine.md): the mixing functions and the rotate bit by bit (R101 to
R105), the tables by group and position (R107 to R109), the four round micro-operations (R111 to R114), and
`TRANSFORM` taken round by round (R115) and on known blocks (R117). -/

namespace Sys2Proof.Machine

/-! ### The primitives, bit by bit -/

/-- `F` selects by `x` (R101). -/
theorem mixF_getLsbD (x y z : Word) {k : Nat} (hk : k < 32) :
    (mixF x y z).getLsbD k = if x.getLsbD k then y.getLsbD k else z.getLsbD k := by
  simp only [mixF, BitVec.getLsbD_or, BitVec.getLsbD_and, BitVec.getLsbD_not, hk, decide_true, Bool.true_and]
  cases x.getLsbD k <;> simp

/-- `G` selects by `z` (R102). -/
theorem mixG_getLsbD (x y z : Word) {k : Nat} (hk : k < 32) :
    (mixG x y z).getLsbD k = if z.getLsbD k then x.getLsbD k else y.getLsbD k := by
  simp only [mixG, BitVec.getLsbD_or, BitVec.getLsbD_and, BitVec.getLsbD_not, hk, decide_true, Bool.true_and]
  cases z.getLsbD k <;> simp

/-- `H` is the parity (R103). -/
theorem mixH_getLsbD (x y z : Word) (k : Nat) :
    (mixH x y z).getLsbD k = ((x.getLsbD k ^^ y.getLsbD k) ^^ z.getLsbD k) := by
  simp only [mixH, BitVec.getLsbD_xor]

/-- `I` flips `y` where `x` is set or `z` is clear (R104). -/
theorem mixI_getLsbD (x y z : Word) {k : Nat} (hk : k < 32) :
    (mixI x y z).getLsbD k = (y.getLsbD k ^^ (x.getLsbD k || !z.getLsbD k)) := by
  simp [mixI, hk]

/-- Every amount R105 allows is below the width, so the two shifts are the library's rotate. -/
theorem rotl32_eq_rotateLeft (x : Word) {s : Nat} (hs : s < 32) : rotl32 x s = x.rotateLeft s := by
  rw [rotl32, BitVec.rotateLeft_def, Nat.mod_eq_of_lt hs]

/-- R105: the bits that stay below bit 32 move up by `s`, the others come in from below. -/
theorem rotl32_getLsbD_add_mod (x : Word) {s k : Nat} (hs : s < 32) (hk : k < 32) :
    (rotl32 x s).getLsbD ((k + s) % 32) = x.getLsbD k := by
  rw [rotl32_eq_rotateLeft x hs, BitVec.getLsbD_rotateLeft, Nat.mod_eq_of_lt hs]
  by_cases hwrap : k + s < 32
  · have hbit : (k + s) % 32 = k + s := Nat.mod_eq_of_lt hwrap
    simp [hbit, hwrap]
  · have hbit : (k + s) % 32 = k + s - 32 := by omega
    have hlow : k + s - 32 < s := by omega
    have hfrom : 32 - s + (k + s - 32) = k := by omega
    simp [hbit, hlow, hfrom]

/-! ### The tables, by group and position -/

theorem roundCode_toNat (grp : BitVec 2) (j : BitVec 4) :
    (roundCode grp j).toNat = 16 * grp.toNat + j.toNat := by
  rw [roundCode, BitVec.toNat_append, ← Nat.shiftLeft_add_eq_or_of_lt j.isLt, Nat.shiftLeft_eq]
  omega

/-- The amount depends on the group and on `i mod 4`, which is `j mod 4` (R108). -/
theorem roundS_roundCode (grp : BitVec 2) (j : BitVec 4) :
    roundS (roundCode grp j) = (rotRow grp).getD (j.toNat % 4) 0 := by
  have hmod : (roundCode grp j).toNat % 4 = j.toNat % 4 := by
    rw [roundCode_toNat]; omega
  rw [roundS, roundGroup_roundCode, hmod]

/-- The rotate amounts in use are the sixteen of R105. -/
theorem roundS_mem (i : RIdx) :
    roundS i ∈ [4, 5, 6, 7, 9, 10, 11, 12, 14, 15, 16, 17, 20, 21, 22, 23] := by
  revert i; decide

/-- The constants of a group, `K[16*grp ..]` (R107). -/
def kRow (grp : BitVec 2) : List Word :=
  if grp = 0 then kGroup0 else if grp = 1 then kGroup1 else if grp = 2 then kGroup2 else kGroup3

theorem roundK_roundCode (grp : BitVec 2) (j : BitVec 4) :
    roundK (roundCode grp j) = (kRow grp).getD j.toNat 0 := by
  revert grp j; decide

theorem roundG_group0 (j : BitVec 4) : roundG (roundCode 0 j) = Fin.ofNat 16 j.toNat := by
  simp [roundG, roundCode_toNat]

theorem roundG_group1 (j : BitVec 4) : roundG (roundCode 1 j) = Fin.ofNat 16 (5 * (16 + j.toNat) + 1) := by
  simp [roundG, roundCode_toNat]

theorem roundG_group2 (j : BitVec 4) : roundG (roundCode 2 j) = Fin.ofNat 16 (3 * (32 + j.toNat) + 5) := by
  simp [roundG, roundCode_toNat]

theorem roundG_group3 (j : BitVec 4) : roundG (roundCode 3 j) = Fin.ofNat 16 (7 * (48 + j.toNat)) := by
  simp [roundG, roundCode_toNat]

theorem group_cases (grp : BitVec 2) : grp = 0 ∨ grp = 1 ∨ grp = 2 ∨ grp = 3 := by
  revert grp; decide

/-- The multipliers 1, 5, 3 and 7 of R109 are odd, so none sends two positions to one word modulo 16. -/
theorem roundG_injective (grp : BitVec 2) : Function.Injective fun j => roundG (roundCode grp j) := by
  intro j j' h
  apply BitVec.eq_of_toNat_eq
  obtain rfl | rfl | rfl | rfl := group_cases grp
  · simp only [roundG_group0, Fin.ext_iff, Fin.val_ofNat] at h; omega
  · simp only [roundG_group1, Fin.ext_iff, Fin.val_ofNat] at h; omega
  · simp only [roundG_group2, Fin.ext_iff, Fin.val_ofNat] at h; omega
  · simp only [roundG_group3, Fin.ext_iff, Fin.val_ofNat] at h; omega

/-- Within a group `g` is a permutation of the block words (R109). -/
theorem roundG_bijective (grp : BitVec 2) : Function.Bijective fun j => roundG (roundCode grp j) :=
  ⟨roundG_injective grp, (roundG_injective grp).surjective_of_finite (BitVec.equivFin (m := 4)).toEquiv⟩

/-! ### A round as an instruction -/

/-- The round of group `grp` at position `j` on the operands it finds: the working words `w` and, in the block word
the tables name, `v`. Its rotate amount and constant are by the group's tables too (R110). -/
theorem stepRound_of_operands (f : Word → Word → Word → Word) {grp : BitVec 2} {j : BitVec 4} {s : State}
    {w : Working} {v : Word} {k : Fin 16} (hg : roundG (roundCode grp j) = k) (hw : s.work = w)
    (hv : s.m.get k = v) :
    stepRound f (roundCode grp j) s = .next (s.setWork ⟨w.d,
      w.b + rotl32 (w.a + f w.b w.c w.d + v + (kRow grp).getD j.toNat 0) ((rotRow grp).getD (j.toNat % 4) 0),
      w.b, w.c⟩) := by
  rw [stepRound, roundWith, roundSum, roundS_roundCode, roundK_roundCode, hg, hv, hw]

/-! ### A `TRANSFORM` taken round by round -/

/-- The sequencer's field when `k` rounds have run: closed after all 64 (R20). -/
def roundAfter (k : Nat) : Option RIdx := if k < 64 then some (BitVec.ofNat 6 k) else none

theorem nextRound_ofNat {k : Nat} (hk : k < 64) : nextRound (BitVec.ofNat 6 k) = roundAfter (k + 1) := by
  revert k; decide

theorem run_succ_of_step {n : Nat} {s u : State} (h : step s = .next u) :
    Host.Core.run Sys2Proof.core (n + 1) s = Host.Core.run Sys2Proof.core n u := by
  have hcore : Sys2Proof.core.step s = .next u := h
  simp only [Host.Core.run, hcore]

/-- The last `n` rounds, as `n` steps of the machine: they fold `roundOp` over the working words, close the
`TRANSFORM`, and change nothing else. -/
theorem run_lastRounds {n k : Nat} (hk : k + n = 64) {s : State} (hs : s.round = roundAfter k) :
    Host.Core.run Sys2Proof.core n s = .next { s with
      work := ((List.range' k n).map (BitVec.ofNat 6)).foldl (fun w i => roundOp s.m i w) s.work
      round := none } := by
  induction n generalizing k s with
  | zero =>
    obtain rfl : k = 64 := hk
    rw [← show s.round = none from hs]
    rfl
  | succ n ih =>
    have hlt : k < 64 := by omega
    have hstep := step_round (hs.trans (if_pos hlt))
    exact (run_succ_of_step hstep).trans (ih (by omega) (nextRound_ofNat hlt))

/-! ### The statements -/

/-- Settles O6: an amount below 32 is a rotate of the library's, and the amounts in use are a table. -/
theorem rotateMovesEveryBit : Obligations.RotateMovesEveryBit :=
  ⟨fun x _ _ _ hs hk => rotl32_getLsbD_add_mod x hs hk, roundS_mem, by decide, by decide, by decide⟩

/-- Settles O12: opening the `TRANSFORM` stands before round 0, from where the 64 rounds are the last. -/
theorem sixtyFourRoundStepsComputeTransform : Obligations.SixtyFourRoundStepsComputeTransform := by
  intro s h m
  refine ⟨allRounds m ⟨h.h0, h.h1, h.h2, h.h3⟩, ?_, rfl⟩
  have hround : (s.startTransform h m).round = roundAfter 0 := rfl
  rw [run_lastRounds rfl hround, ← List.range_eq_range']
  rfl

/-- Settles O5: one lemma per function; the examples evaluated. -/
theorem mixingFunctionsBitByBit : Obligations.MixingFunctionsBitByBit :=
  ⟨fun x y z k hk => ⟨mixF_getLsbD x y z hk, mixG_getLsbD x y z hk, mixH_getLsbD x y z k,
    mixI_getLsbD x y z hk⟩, by decide, by decide, by decide, by decide⟩

/-- Settles O7: the formulas with `j` are those with `i` modulo 16, and a bijection takes each value once. -/
theorem rotateAndWordTables : Obligations.RotateAndWordTables := by
  refine ⟨fun j => ⟨roundS_roundCode 0 j, roundS_roundCode 1 j, roundS_roundCode 2 j, roundS_roundCode 3 j,
    ?_, ?_, ?_, ?_, congrArg Fin.val (roundG_group1 j), congrArg Fin.val (roundG_group2 j),
    congrArg Fin.val (roundG_group3 j)⟩, fun grp k => (roundG_bijective grp).existsUnique k⟩
  · rw [roundG_group0, Fin.val_ofNat]; omega
  · rw [roundG_group1, Fin.val_ofNat]; omega
  · rw [roundG_group2, Fin.val_ofNat]; omega
  · rw [roundG_group3, Fin.val_ofNat]; omega

/-- Settles O8: `FF j` is the round of group 0 at position `j`, whatever operands it finds. -/
theorem roundFFReplacesOneWorkingWord : Obligations.RoundFFReplacesOneWorkingWord :=
  ⟨fun j _ => stepRound_of_operands mixF (roundG_group0 j) rfl rfl,
    fun _ hw hm => stepRound_of_operands mixF (roundG_group0 0) hw hm⟩

/-- Settles O9: `GG j` is the round of group 1 at position `j`. -/
theorem roundGGReplacesOneWorkingWord : Obligations.RoundGGReplacesOneWorkingWord :=
  ⟨fun j _ => stepRound_of_operands mixG (roundG_group1 j) rfl rfl,
    fun _ hw hm => stepRound_of_operands mixG (roundG_group1 0) hw hm⟩

/-- Settles O10: `HH j` is the round of group 2 at position `j`. -/
theorem roundHHReplacesOneWorkingWord : Obligations.RoundHHReplacesOneWorkingWord :=
  ⟨fun j _ => stepRound_of_operands mixH (roundG_group2 j) rfl rfl,
    fun _ hw hm => stepRound_of_operands mixH (roundG_group2 0) hw hm⟩

/-- Settles O11: `II j` is the round of group 3 at position `j`. -/
theorem roundIIReplacesOneWorkingWord : Obligations.RoundIIReplacesOneWorkingWord :=
  ⟨fun j _ => stepRound_of_operands mixI (roundG_group3 j) rfl rfl,
    fun _ hw hm => stepRound_of_operands mixI (roundG_group3 0) hw hm⟩

/-- Settles O13: the pure functions evaluated on the fixed blocks. -/
theorem transformKnownBlocks : Obligations.TransformKnownBlocks := by
  unfold Obligations.TransformKnownBlocks
  decide +kernel

end Sys2Proof.Machine
end

section
/-! PROOFS. The Compressor (spec/41_compressor.md): `LOADBLOCK`'s byte order from payload bytes and from the carry
buffer (R43, R130), and `COMPRESS` as a fold over blocks (R54, R131, R132). -/

namespace Sys2Proof.Machine

/-! ### `LOADBLOCK` -/

/-- A byte of `BUF[0..n)`, whatever the list would read past its end. -/
theorem Memory.bytes_getD (mem : Memory) {n j : Nat} (d : Byte) (hj : j < n) :
    (mem.bytes n).getD j d = mem.read j := by
  rw [List.getD_eq_getElem?_getD, Memory.bytes_getElem mem n j hj, Option.getD_some]

/-- `MemRead(addr, 4)` is `LE32` of the four bytes from `addr` on (R6, R43). -/
theorem Memory.readLE_four (mem : Memory) (addr : Nat) :
    mem.readLE addr 4 =
      (le32 (mem.read addr) (mem.read (addr + 1)) (mem.read (addr + 2)) (mem.read (addr + 3))).toNat := by
  simp [Memory.readLE, le32_toNat]

/-- Block word `k` loaded from the carry buffer is the 32-bit read at address `4k` (R130). -/
theorem loadBlock_bytes_get_toNat (mem : Memory) (k : Fin 16) :
    ((loadBlock (mem.bytes 64)).get k).toNat = mem.readLE (4 * k.val) 4 := by
  simp (disch := omega) only [loadBlock_get, Memory.readLE_four, Memory.bytes_getD]

/-! ### `COMPRESS` -/

/-- One block is one `TRANSFORM` of the first 64 bytes (R131). -/
theorem compressBlocks_one (h : Digest) (blk : List Byte) :
    compressBlocks h blk 1 = transform h (loadBlock (blk.take 64)) := rfl

/-! ### The statements -/

/-- Settles O14: a loaded word is `LE32` of its four bytes, and so is a read of four bytes from the carry buffer. -/
theorem loadBlockIsLittleEndian : Obligations.LoadBlockIsLittleEndian := by
  refine ⟨fun blk k _ => ?_, loadBlock_bytes_get_toNat, by decide⟩
  rw [loadBlock_get, le32_toNat]
  omega

/-- Settles O15: the laws of the fold `compressBlocks`; the rule's example is the one `TRANSFORM` of the block of
"abc" (R117, W2). -/
theorem compressFoldsBlocksInOrder : Obligations.CompressFoldsBlocksInOrder := by
  obtain ⟨-, habc, -⟩ := transformKnownBlocks
  exact ⟨compress_zero, compressBlocks_append, compressBlocks_add, compressBlocks_one, habc⟩

end Sys2Proof.Machine
end

section
/-! PROOFS. The Stream Buffer (spec/42_stream_buffer.md): what `RESET` writes (R140), what `FEED` leaves and its
corner cases (R141 to R148), and that a session depends on the message alone, not on how it was split (R149). -/

namespace Sys2Proof.Machine

/-! ### `RESET` -/

/-- A session reset of a state that already has the initial `H`, `LEN` and `BUFLEN` changes nothing (R140). -/
theorem resetSession_eq_self {s : State} (h : s.h = Digest.init) (hlen : s.len = 0) (hfill : s.buflen = 0) :
    s.resetSession = s := by
  rw [State.resetSession, ← h, ← hlen, ← hfill]

/-- The one next state of a `RESET` (R140). -/
theorem eq_resetSession_of_exec {s t : State} (h : exec .reset s = .next t) : t = s.resetSession :=
  (Host.Outcome.next.inj h).symm

/-- `RESET` and `FINALIZE` both end in the initial session (R140, R167). -/
theorem session_initial_of_exec {before : List Byte} {s t : State}
    (h : exec .reset s = .next t ∨ exec (.finalize before) s = .next t) : t.session = Session.initial := by
  obtain h | h := h
  · rw [eq_resetSession_of_exec h, resetSession_session]
  · rw [eq_finalize_of_exec h, finalize_session]

/-! ### `FEED` by cases of the fill -/

/-- Nothing is topped up into an empty buffer (R143). -/
theorem topUp_of_empty {data : List Byte} {s : State} (h : s.buflen.toNat = 0) : topUp data s = s := by
  simp [topUp, carryNonEmpty, h]

theorem topUpCount_of_lt {n : Nat} {s : State} (hne : s.buflen.toNat ≠ 0) (h : s.buflen.toNat + n < 64) :
    topUpCount n s = n := by
  rw [topUpCount_of_nonempty hne]
  omega

/-- A top-up that does not reach 64 bytes takes the whole payload and drains nothing (R143). -/
theorem topUp_of_lt {data : List Byte} {s : State} (hne : s.buflen.toNat ≠ 0)
    (h : s.buflen.toNat + data.length < 64) : topUp data s = s.appendBytes data := by
  have hcount := topUpCount_of_lt hne h
  have hfill := s.appendBytes_buflen data (by omega)
  have hdrain : drainIfFull (s.appendBytes data) = s.appendBytes data := drainIfFull_of_ne (by omega)
  simp [topUp, carryNonEmpty, hne, hcount, hdrain]

/-- Fewer than 64 bytes are all remainder (R145). -/
theorem keepRemainder_of_length_lt {rest : List Byte} (s : State) (h : rest.length < 64) :
    keepRemainder rest s = s.appendBytes rest := by
  rw [keepRemainder, Nat.div_eq_of_lt h, Nat.mul_zero, List.drop_zero]

/-- Whole blocks have no remainder (R145). -/
theorem keepRemainder_of_whole_blocks {rest : List Byte} (s : State) (h : rest.length % 64 = 0) :
    keepRemainder rest s = s := by
  rw [keepRemainder, List.drop_eq_nil_of_le (by omega), State.appendBytes_nil]

/-- `FEED` into an empty buffer goes straight to the direct blocks (R148 (d), (e)). -/
theorem feed_of_empty {data : List Byte} {s : State} (h : s.buflen.toNat = 0) :
    feed data s = keepRemainder data (directBlocks data (s.addLen data.length)) := by
  rw [feed, topUpCount_of_empty h, List.drop_zero, topUp_of_empty (s := s.addLen data.length) h]

/-- A `FEED` that completes no block counts the payload and appends it, and that is all (R148 (b), (e)). -/
theorem feed_of_lt {data : List Byte} {s : State} (h : s.buflen.toNat + data.length < 64) :
    feed data s = (s.addLen data.length).appendBytes data := by
  by_cases hempty : s.buflen.toNat = 0
  · rw [feed_of_empty hempty, directBlocks_of_length_lt _ (by omega), keepRemainder_of_length_lt _ (by omega)]
  · rw [feed, topUpCount_of_lt hempty h, List.drop_length, topUp_of_lt (s := s.addLen data.length) hempty h,
      directBlocks_of_length_lt _ (by simp), keepRemainder_of_length_lt _ (by simp), State.appendBytes_nil]

/-- An empty payload changes nothing (R148 (a)). -/
theorem feed_nil {s : State} (h : s.buflen.toNat < 64) : feed [] s = s := by
  rw [feed_of_lt (by simpa using h), State.appendBytes_nil, State.addLen]
  simp

/-- Whole blocks into an empty buffer are never stored (R148 (d)). -/
theorem feed_buf_of_empty_of_whole_blocks {data : List Byte} {s : State} (hempty : s.buflen.toNat = 0)
    (h : data.length % 64 = 0) : (feed data s).buf = s.buf := by
  rw [feed_of_empty hempty, keepRemainder_of_whole_blocks _ h, directBlocks_buf, State.addLen_buf]

/-- A `FEED` that completes no block leaves `H` and the temporaries as found (R147; log 20). -/
theorem feed_engine_of_lt {data : List Byte} {s : State} (h : s.buflen.toNat + data.length < 64) :
    (feed data s).h = s.h ∧ (feed data s).work = s.work ∧ (feed data s).m = s.m := by
  obtain ⟨_, _, hframe⟩ := (s.addLen data.length).appendBytes_frame data
  rw [feed_of_lt h, hframe]
  exact ⟨rfl, rfl, rfl⟩

theorem State.buffered_of_empty {s : State} (h : s.buflen.toNat = 0) : s.buffered = [] := by
  rw [State.buffered, h, Memory.bytes_zero]

@[simp] theorem State.buffered_length (s : State) : s.buffered.length = s.buflen.toNat :=
  Memory.bytes_length _ _

/-! ### The session of a message -/

/-- The session after the bytes `msg`, however they were split (R149): the whole blocks are in `H`, the rest is
buffered. -/
def Session.ofMessage (msg : List Byte) : Session where
  h := compressBlocks Digest.init msg (msg.length / 64)
  len := BitVec.ofNat 64 msg.length
  buflen := BitVec.ofNat 7 (msg.length % 64)
  buffered := msg.drop (64 * (msg.length / 64))

theorem Session.ofMessage_nil : Session.ofMessage [] = Session.initial := rfl

/-- The fill and the length of a session within the bound, as numbers. -/
theorem Session.ofMessage_toNat {msg : List Byte} {s : State} (h : s.session = Session.ofMessage msg)
    (hb : msg.length ≤ maxTotalBytes) : s.len.toNat = msg.length ∧ s.buflen.toNat = msg.length % 64 := by
  obtain ⟨-, hlen, hfill, -⟩ := Session.mk.inj h
  unfold maxTotalBytes at hb
  rw [hlen, hfill, BitVec.toNat_ofNat, BitVec.toNat_ofNat]
  omega

/-- The blocks of a message that grows: what is compressed stays compressed, and the bytes held back stand in
front of the new ones (R149). -/
theorem compressBlocks_message_append (h : Digest) (msg data : List Byte) :
    compressBlocks h (msg ++ data) ((msg ++ data).length / 64) =
      compressBlocks (compressBlocks h msg (msg.length / 64)) (msg.drop (64 * (msg.length / 64)) ++ data)
        ((msg.length % 64 + data.length) / 64) := by
  have hq : (msg ++ data).length / 64 = msg.length / 64 + (msg.length % 64 + data.length) / 64 := by
    rw [List.length_append]; omega
  rw [hq, compressBlocks_add, compressBlocks_append _ _ _ _ (by omega),
    List.drop_append_of_le_length (by omega)]

/-- The bytes a message that grows holds back. -/
theorem drop_message_append (msg data : List Byte) :
    (msg ++ data).drop (64 * ((msg ++ data).length / 64)) =
      (msg.drop (64 * (msg.length / 64)) ++ data).drop (64 * ((msg.length % 64 + data.length) / 64)) := by
  have hq : 64 * ((msg ++ data).length / 64) =
      64 * (msg.length / 64) + 64 * ((msg.length % 64 + data.length) / 64) := by
    rw [List.length_append]; omega
  rw [hq, ← List.drop_drop, List.drop_append_of_le_length (by omega)]

/-- `FEED` takes the session of a message to the session of the longer message (R149). -/
theorem feed_session_ofMessage {s : State} {msg : List Byte} (data : List Byte) (hs : StateInv s)
    (h : s.session = Session.ofMessage msg) (hb : msg.length ≤ maxTotalBytes) :
    (feed data s).session = Session.ofMessage (msg ++ data) := by
  obtain ⟨hh, hlen, -, hbuf⟩ := Session.mk.inj h
  obtain ⟨-, hfillNat⟩ := Session.ofMessage_toNat h hb
  obtain ⟨-, l, f, d, b⟩ := feed_spec data s hs.bufCanonical hs.carryShort
  have hlen' : (feed data s).len = BitVec.ofNat 64 (msg ++ data).length := by
    rw [l, hlen, List.length_append, BitVec.ofNat_add]
  have hfill' : (feed data s).buflen = BitVec.ofNat 7 ((msg ++ data).length % 64) := by
    apply BitVec.eq_of_toNat_eq
    rw [f, hfillNat, BitVec.toNat_ofNat, List.length_append]
    omega
  rw [State.session, Session.ofMessage, hlen', hfill', d, b, hfillNat, hh, hbuf,
    compressBlocks_message_append, drop_message_append]

/-! ### Runs of commands -/

/-- A run that completes goes on with the commands behind it. -/
theorem runInstrs_append {is js : List Instr} {s t : State} (h : runInstrs is s = .next t) :
    runInstrs (is ++ js) s = runInstrs js t := by
  induction is generalizing s with
  | nil =>
    obtain rfl : s = t := Host.Outcome.next.inj h
    rfl
  | cons i is ih =>
    simp only [runInstrs] at h
    split at h
    · next u hu => simp only [List.cons_append, runInstrs, hu, ih h]
    · cases h
    · cases h

/-- One command as a run. -/
theorem runInstrs_singleton {i : Instr} {s t : State} (h : exec i s = .next t) : runInstrs [i] s = .next t := by
  simp only [runInstrs, h]

/-- `FEED` commands within the bound all complete, answer nothing, and leave the session of the message (R149). -/
theorem runInstrs_feeds {chunks : List (List Byte)} {msg : List Byte} {s : State} (hs : StateInv s)
    (h : s.session = Session.ofMessage msg) (hb : (msg ++ chunks.flatten).length ≤ maxTotalBytes) :
    ∃ t, runInstrs (chunks.map .feed) s = .next t ∧ StateInv t ∧
      t.session = Session.ofMessage (msg ++ chunks.flatten) ∧ t.resp = s.resp := by
  induction chunks generalizing msg s with
  | nil => exact ⟨s, rfl, hs, by simpa using h, rfl⟩
  | cons data chunks ih =>
    rw [List.flatten_cons, ← List.append_assoc] at hb ⊢
    have hmsg : (msg ++ data).length ≤ maxTotalBytes := by
      rw [List.length_append] at hb; omega
    rw [List.length_append] at hmsg
    obtain ⟨hlen, -⟩ := Session.ofMessage_toNat h (by omega)
    have hexec : exec (.feed data) s = .next (feed data s) := exec_feed_eq (by omega) hs.carryShort
    obtain ⟨t, hrun, ht, hsession, hresp⟩ := ih (feed_keeps_stateInv hs (by omega))
      (feed_session_ofMessage data hs h (by omega)) hb
    obtain ⟨-, -, -, hfed⟩ := feed_frame data s
    refine ⟨t, ?_, ht, hsession, hresp.trans hfed⟩
    simp only [List.map_cons, runInstrs, hexec, hrun]

/-- An initial session on a canonical memory meets the invariant. -/
theorem stateInv_of_session_initial {s : State} (hw : s.buf.wf = true) (h : s.session = Session.initial) :
    StateInv s := by
  obtain ⟨-, hlen, hfill, -⟩ := Session.mk.inj h
  exact (stateInv_resetSession hw).of_carry_eq rfl hlen hfill

/-- `FINALIZE`'s answer behind one response stream is a function of the session and the last piece (R149). -/
theorem finalize_resp_congr {s s' : State} {data data' : List Byte} (hs : StateInv (feed data s))
    (hs' : StateInv (feed data' s')) (heq : (feed data s).session = (feed data' s').session)
    (hresp : s.resp = s'.resp) : (finalize data s).resp = (finalize data' s').resp := by
  obtain ⟨-, -, -, h⟩ := finalize_streams data s
  obtain ⟨-, -, -, h'⟩ := finalize_streams data' s'
  rw [h, h', compressTail_h_congr hs hs' heq, hresp]

/-! ### The statements -/

/-- Settles O16: the effect of `FEED` on the session and its frame, and no `TRANSFORM` where no block completes. -/
theorem feedCompletesAndKeepsItsInvariants : Obligations.FeedCompletesAndKeepsItsInvariants := by
  intro data s hs hb
  obtain ⟨hw, hlen, hfill, hh, hbuf⟩ := feed_spec data s hs.bufCanonical hs.carryShort
  obtain ⟨hround, hcs, hcpos, hresp⟩ := feed_frame data s
  have hinv := feed_keeps_stateInv hs hb
  have hlenNat : (feed data s).len.toNat = s.len.toNat + data.length := by
    rw [hlen, toNat_add_ofNat_of_le_maxTotalBytes hb]
  exact ⟨feed data s, exec_feed_eq hb hs.carryShort, hinv.carryShort, hinv.carryIsLenMod, hw, hlenNat, hfill, hh,
    hbuf, hround, hcs, hcpos, hresp, feed_engine_of_lt⟩

/-- Settles O18: clauses (b) to (e) are the effect of `FEED` at their fill and payload length; (g) is that `FEED`
sees the session alone, which is initial after `RESET` and `FINALIZE`. -/
theorem feedCornerCases : Obligations.FeedCornerCases := by
  refine ⟨fun s hs => ?_, fun data s t hs h => ?_, fun before data s t u v hs ht hu hv => ?_⟩
  · rw [exec_feed_eq (by simpa using hs.lenBounded) hs.carryShort, feed_nil hs.carryShort]
  · obtain rfl := eq_feed_of_exec h
    obtain ⟨-, -, hfill, hh, hbuf⟩ := feed_spec data s hs.bufCanonical hs.carryShort
    refine ⟨fun _ hlt => ?_, fun _ h64 => ?_, fun hempty hwhole => ?_, fun hempty hlt => ?_⟩
    · rw [hh, hbuf, Nat.div_eq_of_lt hlt]
      exact ⟨rfl, rfl⟩
    · have hblock : (s.buffered ++ data).take 64 = s.buffered ++ data :=
        List.take_of_length_le (by rw [List.length_append, State.buffered_length, h64])
      rw [hh, h64, Nat.div_self (by decide), compressBlocks_one, hblock]
      exact ⟨rfl, BitVec.eq_of_toNat_eq (by rw [hfill, h64]; rfl)⟩
    · rw [hh, State.buffered_of_empty hempty, hempty, Nat.zero_add, List.nil_append]
      exact ⟨rfl, BitVec.eq_of_toNat_eq (by rw [hfill, hempty, Nat.zero_add, hwhole]; rfl),
        feed_buf_of_empty_of_whole_blocks hempty hwhole⟩
    · rw [hh, hbuf, State.buffered_of_empty hempty, hempty, Nat.zero_add, Nat.div_eq_of_lt hlt]
      exact ⟨rfl, rfl⟩
  · obtain rfl := eq_feed_of_exec hu
    obtain rfl := eq_feed_of_exec hv
    have hinv : StateInv t := ht.elim (exec_keeps_stateInv hs) (exec_keeps_stateInv hs)
    obtain ⟨hreset, -⟩ := resetStateMeetsTheInvariant
    exact feed_session_congr data hinv hreset (session_initial_of_exec ht)

/-- Settles O19: the `FEED` commands leave the session of the message; feeding the last piece there and feeding the
whole message after a `RESET` reach one session, so the two answers are the same. -/
theorem chunkingInvariance : Obligations.ChunkingInvariance := by
  intro chunks s hw hinit hb
  have hs := stateInv_of_session_initial hw hinit
  obtain ⟨t, hrun, ht, hsession, hresp⟩ := runInstrs_feeds (chunks := chunks) (msg := []) hs hinit hb
  rw [List.nil_append] at hsession
  obtain ⟨hlen, hfill⟩ := Session.ofMessage_toNat hsession hb
  obtain ⟨hh, -, -, hbuf⟩ := Session.mk.inj hsession
  refine ⟨t, hrun, hlen, hfill, hbuf, hh, fun last hlast => ?_⟩
  have hr := stateInv_resetSession hw
  have hboundLast : t.len.toNat + last.length ≤ maxTotalBytes := by
    rwa [hlen, ← List.length_append]
  have hboundAll : s.resetSession.len.toNat + (chunks.flatten ++ last).length ≤ maxTotalBytes := by
    simpa using hlast
  have hpieces : (feed last t).session = Session.ofMessage (chunks.flatten ++ last) :=
    feed_session_ofMessage last ht hsession hb
  have hwhole : (feed (chunks.flatten ++ last) s.resetSession).session =
      Session.ofMessage (chunks.flatten ++ last) :=
    feed_session_ofMessage (msg := []) _ hr (resetSession_session s) (Nat.zero_le _)
  refine ⟨finalize last t, finalize (chunks.flatten ++ last) s.resetSession, ?_, ?_, ?_⟩
  · rw [runInstrs_append hrun]
    exact runInstrs_singleton (exec_finalize_eq hboundLast ht.carryShort)
  · exact runInstrs_singleton (exec_finalize_eq hboundAll hr.carryShort)
  · exact finalize_resp_congr (feed_keeps_stateInv ht hboundLast) (feed_keeps_stateInv hr hboundAll)
      (hpieces.trans hwhole.symm) hresp

/-- Settles O3: `RESET` is the session reset, which changes nothing where `H`, `LEN` and `BUFLEN` are initial. -/
theorem resetCommandReinitializesTheSession : Obligations.ResetCommandReinitializesTheSession := by
  refine ⟨fun s => rfl, fun s t h => ?_, fun data s t h => ?_, ?_⟩
  · obtain rfl := eq_resetSession_of_exec h
    exact congrArg Host.Outcome.next (resetSession_eq_self rfl rfl rfl)
  · obtain rfl := eq_finalize_of_exec h
    exact congrArg Host.Outcome.next
      (resetSession_eq_self (finalize_h data s) (finalize_len data s) (finalize_buflen data s))
  · exact ⟨_, _, rfl, by decide, rfl, by decide⟩

end Sys2Proof.Machine
end

section
/-! PROOFS. Padding and Finalizer (spec/43_finalizer.md): the padding and the tail (R161 to R163), HEXRENDER (R164,
R165), `FINALIZE` (R160, R168, R170), the digest of a message however it was split (R171), and the host's
pseudo-instructions (R173, R174). -/

namespace Sys2Proof.Machine

/-! ### The padding -/

/-- `pad_len` lies in 1 to 64 and brings the length to 56 modulo 64 (R161). -/
theorem padLen_spec (total : Nat) :
    1 ≤ padLen (total % 64) ∧ padLen (total % 64) ≤ 64 ∧ (total + padLen (total % 64)) % 64 = 56 := by
  by_cases hshort : total % 64 < 56
  · simp only [padLen, shortTail, hshort, decide_true, if_true]
    omega
  · simp only [padLen, shortTail, hshort, decide_false, Bool.false_eq_true, if_false]
    omega

/-- The padding in front of its length field, and the field (R162). -/
theorem pad_eq_append (total : BitVec 64) :
    pad total = (0x80 :: List.replicate (padLen (total.toNat % 64) - 1) 0) ++ leBytes (total * 8) 8 := rfl

/-- The padding in front of its length field is `pad_len` bytes long (R161, R162). -/
theorem padBeforeField_length (total : BitVec 64) :
    (0x80 :: List.replicate (padLen (total.toNat % 64) - 1) (0 : Byte)).length = padLen (total.toNat % 64) := by
  obtain ⟨hpos, -, -⟩ := padLen_spec total.toNat
  rw [List.length_cons, List.length_replicate, Nat.sub_add_cancel hpos]

theorem pad_length (total : BitVec 64) : (pad total).length = padLen (total.toNat % 64) + 8 := by
  rw [pad_eq_append, List.length_append, padBeforeField_length, leBytes_length]

/-- The last eight bytes of the padding are the length field (R162). -/
theorem pad_drop_padLen (total : BitVec 64) :
    (pad total).drop (padLen (total.toNat % 64)) = leBytes (total * 8) 8 := by
  rw [pad_eq_append, List.drop_left' (padBeforeField_length total)]

/-- The bit length of a message within the session bound fits its 64-bit field (R11, R162). -/
theorem toNat_mul_eight_of_le_maxTotalBytes {total : BitVec 64} (h : total.toNat ≤ maxTotalBytes) :
    (total * 8).toNat = total.toNat * 8 := by
  unfold maxTotalBytes at h
  rw [BitVec.toNat_mul, show (8 : BitVec 64).toNat = 8 from rfl]
  omega

/-- The tail is one block below 56 buffered bytes and two from there on (R163). -/
theorem tailOf_length (s : State) : (tailOf s).length = if s.len.toNat % 64 < 56 then 64 else 128 := by
  obtain ⟨hpos, hle, hmod⟩ := padLen_spec s.len.toNat
  rw [tailOf, List.length_append, Memory.bytes_length, pad_length]
  split <;> omega

/-! ### HEXRENDER -/

/-- Pieces of one length `n`, joined: place `n * i + j` is place `j` of piece `i`. -/
theorem getElem?_flatMap_of_length {α β : Type} {f : α → List β} {n : Nat} (hf : ∀ a, (f a).length = n)
    (as : List α) (i : Nat) {j : Nat} (hj : j < n) :
    (as.flatMap f)[n * i + j]? = as[i]?.bind fun a => (f a)[j]? := by
  induction as generalizing i with
  | nil => simp
  | cons a as ih =>
    cases i with
    | zero => simp [List.getElem?_append_left, hf, hj]
    | succ i =>
      have hpos : n * (i + 1) + j = (f a).length + (n * i + j) := by rw [hf, Nat.mul_succ]; omega
      rw [List.flatMap_cons, hpos, List.getElem?_append_right (Nat.le_add_right _ _), Nat.add_sub_cancel_left, ih,
        List.getElem?_cons_succ]

/-- The four words of the digest state, `H[0]` first (R10). -/
def Digest.words (h : Digest) : List Word := [h.h0, h.h1, h.h2, h.h3]

theorem digestBytes_eq_flatMap (h : Digest) : digestBytes h = h.words.flatMap fun v => leBytes v 4 := by
  simp [digestBytes, Digest.words]

theorem leBytes_getElem? {w : Nat} (v : BitVec w) {n j : Nat} (hj : j < n) : (leBytes v n)[j]? = some (byteOf v j) := by
  simp [leBytes, hj]

/-- Byte `4w + j` of the digest is byte `j` of `H[w]` (R166). -/
theorem digestBytes_getElem? (h : Digest) (w j : Fin 4) :
    (digestBytes h)[4 * w.val + j.val]? = some (byteOf (h.words.getD w.val 0) j.val) := by
  have hw : h.words[w.val]? = some (h.words.getD w.val 0) := by
    rw [List.getD_eq_getElem _ _ w.isLt, List.getElem?_eq_getElem w.isLt]
  rw [digestBytes_eq_flatMap, getElem?_flatMap_of_length (fun v => leBytes_length v 4) _ _ j.isLt, hw,
    Option.bind_some, leBytes_getElem? _ j.isLt]

theorem hexByte_length (b : Byte) : (hexByte b).length = 2 := rfl

/-- The two characters of byte `j` of `H[w]` (R164). -/
theorem hexRender_getElem? (h : Digest) (w j : Fin 4) {k : Nat} (hk : k < 2) :
    (hexRender h)[8 * w.val + 2 * j.val + k]? = (hexByte (byteOf (h.words.getD w.val 0) j.val))[k]? := by
  have hpos : 8 * w.val + 2 * j.val + k = 2 * (4 * w.val + j.val) + k := by omega
  rw [hpos, hexRender, getElem?_flatMap_of_length hexByte_length _ _ hk, digestBytes_getElem?, Option.bind_some]

/-- The first eight characters are those of `H[0]` (R164). -/
theorem hexRender_take_eight (h : Digest) : (hexRender h).take 8 = (leBytes h.h0 4).flatMap hexByte := by
  rw [hexRender, digestBytes_eq_flatMap, Digest.words, List.flatMap_cons, List.flatMap_append]
  exact List.take_left' rfl

theorem highNibble_byteOf {w : Nat} (v : BitVec w) (j : Nat) :
    highNibble (byteOf v j) = v.extractLsb' (8 * j + 4) 4 := by
  ext k hk
  simp [highNibble, byteOf, show 4 + k < 8 by omega, Nat.add_assoc]

theorem lowNibble_byteOf {w : Nat} (v : BitVec w) (j : Nat) :
    lowNibble (byteOf v j) = v.extractLsb' (8 * j) 4 := by
  ext k hk
  simp [lowNibble, byteOf, show k < 8 by omega]

theorem hexdigit_toNat (n : BitVec 4) :
    (hexdigit n).toNat = if n.toNat ≤ 9 then 0x30 + n.toNat else 0x61 + (n.toNat - 10) := by
  revert n; decide

/-! ### The padding step and `FINALIZE` -/

/-- The padding step on a state that holds `msg`, its whole blocks compressed from `h` and the rest buffered: the
padded message has gone through the Compressor (R163, R171). -/
theorem compressTail_h_of_message {s : State} {h : Digest} {msg : List Byte} (hs : StateInv s)
    (hh : s.h = compressBlocks h msg (msg.length / 64))
    (hbuf : s.buffered = msg.drop (64 * (msg.length / 64))) :
    (compressTail s).h =
      compressBlocks h (msg ++ pad s.len) ((msg.length + padLen (msg.length % 64) + 8) / 64) := by
  have hfill : s.buffered.length = msg.length % 64 := by rw [hbuf, List.length_drop]; omega
  have hmod : s.len.toNat % 64 = msg.length % 64 := by rw [← hs.carryIsLenMod, ← State.buffered_length, hfill]
  have hcount : (msg ++ pad s.len).length = msg.length + padLen (msg.length % 64) + 8 := by
    rw [List.length_append, pad_length, hmod, Nat.add_assoc]
  rw [← hcount, compressBlocks_message_append, compressTail, compress_h, tailOf_eq hs, List.length_append, hfill, hh,
    hbuf]

/-- What the padding step of a `FINALIZE` leaves in `H` (R168). -/
theorem compressTail_feed_h {data : List Byte} {s : State} (hs : StateInv s)
    (hb : s.len.toNat + data.length ≤ maxTotalBytes) :
    (compressTail (feed data s)).h = compressBlocks s.h
      (s.buffered ++ data ++ pad (s.len + BitVec.ofNat 64 data.length))
      ((s.buflen.toNat + data.length + padLen ((s.len.toNat + data.length) % 64) + 8) / 64) := by
  obtain ⟨-, hlen, -, hh, hbuf⟩ := feed_spec data s hs.bufCanonical hs.carryShort
  have hmsg : (s.buffered ++ data).length = s.buflen.toNat + data.length := by
    rw [List.length_append, State.buffered_length]
  have hmod : (s.buflen.toNat + data.length) % 64 = (s.len.toNat + data.length) % 64 := by
    rw [hs.carryIsLenMod, Nat.mod_add_mod]
  rw [← hmsg] at hh hbuf
  rw [compressTail_h_of_message (feed_keeps_stateInv hs hb) hh hbuf, hlen, hmsg, hmod]

/-- `FINALIZE` from the session of `msg` answers the digest of `msg` and its payload (R171). -/
theorem exec_finalize_ofMessage {s : State} {msg last : List Byte} (hs : StateInv s)
    (h : s.session = Session.ofMessage msg) (hb : (msg ++ last).length ≤ maxTotalBytes) :
    ∃ t, exec (.finalize last) s = .next t ∧ t.resp = s.resp ++ digestOf (msg ++ last) := by
  have hsum := hb
  rw [List.length_append] at hsum
  obtain ⟨hlen, -⟩ := Session.ofMessage_toNat h (by omega)
  have hbound : s.len.toNat + last.length ≤ maxTotalBytes := by omega
  obtain ⟨hh, hlen', -, hbuf⟩ := Session.mk.inj (feed_session_ofMessage last hs h (by omega))
  obtain ⟨-, -, -, hresp⟩ := finalize_streams last s
  refine ⟨_, exec_finalize_eq hbound hs.carryShort, ?_⟩
  rw [hresp, compressTail_h_of_message (feed_keeps_stateInv hs hbound) hh hbuf, hlen', digestOf]

/-- `FINALIZE` of a whole message on an initial session (R173). -/
theorem exec_finalize_initial {s : State} {data : List Byte} (hw : s.buf.wf = true)
    (h : s.session = Session.initial) (hb : data.length ≤ maxTotalBytes) :
    ∃ t, exec (.finalize data) s = .next t ∧ t.resp = s.resp ++ digestOf data :=
  exec_finalize_ofMessage (msg := []) (stateInv_of_session_initial hw h) h hb

/-- The source's known result for the empty message (R173). -/
theorem digestOf_nil : (ByteExpr.text "d41d8cd98f00b204e9800998ecf8427e".toList).bytes = some (digestOf []) := by
  decide +kernel

/-! ### The fill after `FEED`, whatever the memory holds -/

@[simp] theorem State.appendBytes_len (s : State) (data : List Byte) : (s.appendBytes data).len = s.len := by
  obtain ⟨_, _, h⟩ := s.appendBytes_frame data
  rw [h]

@[simp] theorem drainIfFull_len (s : State) : (drainIfFull s).len = s.len := by
  unfold drainIfFull
  split
  · simp
  · rfl

@[simp] theorem topUp_len (data : List Byte) (s : State) : (topUp data s).len = s.len := by
  unfold topUp
  split
  · simp
  · rfl

theorem feed_len (data : List Byte) (s : State) : (feed data s).len = s.len + BitVec.ofNat 64 data.length := by
  simp [feed, keepRemainder, directBlocks]

/-- After the top-up the buffer is empty or the payload is used up (R143). -/
theorem topUp_buflen_cases (data : List Byte) {s : State} (hc : s.buflen.toNat < 64) :
    (topUp data s).buflen.toNat = 0 ∨
      (topUpCount data.length s = data.length ∧ (topUp data s).buflen.toNat < 64) := by
  by_cases hempty : s.buflen.toNat = 0
  · exact .inl (by rw [topUp_of_empty hempty, hempty])
  · by_cases hlt : s.buflen.toNat + data.length < 64
    · have hfill := s.appendBytes_buflen data (by omega)
      exact .inr ⟨topUpCount_of_lt hempty hlt, by rw [topUp_of_lt hempty hlt]; omega⟩
    · have hcount := topUpCount_of_nonempty (n := data.length) hempty
      have htake : (data.take (topUpCount data.length s)).length = 64 - s.buflen.toNat := by
        rw [List.length_take]; omega
      have hfull : (s.appendBytes (data.take (topUpCount data.length s))).buflen.toNat = 64 := by
        rw [State.appendBytes_buflen _ _ (by omega)]; omega
      exact .inl (by simp [topUp, carryNonEmpty, hempty, drainIfFull, carryFull, Config.bufCap, hfull])

/-- `FEED` leaves fewer than 64 bytes buffered (R147). -/
theorem feed_buflen_lt (data : List Byte) {s : State} (hc : s.buflen.toNat < 64) :
    (feed data s).buflen.toNat < 64 := by
  have htop := topUp_buflen_cases (s := s.addLen data.length) data hc
  have hrest : (data.drop (topUpCount data.length s)).length = data.length - topUpCount data.length s :=
    List.length_drop
  have hsame : topUpCount data.length (s.addLen data.length) = topUpCount data.length s := rfl
  rw [feed, keepRemainder, State.appendBytes_buflen _ _ (by rw [List.length_drop, directBlocks_buflen]; omega),
    List.length_drop, directBlocks_buflen]
  omega

/-! ### Runs see the session alone -/

/-- A run of instructions that completes from one of two states with one session completes from the other, to the
same session and with the same answers (R50, R170). -/
theorem runInstrs_session_congr {is : List Instr} {s s' t : State} (hs : StateInv s) (hs' : StateInv s')
    (heq : s.session = s'.session) (h : runInstrs is s = .next t) :
    ∃ t' out, runInstrs is s' = .next t' ∧ t.session = t'.session ∧
      t.resp = s.resp ++ out ∧ t'.resp = s'.resp ++ out := by
  induction is generalizing s s' with
  | nil =>
    obtain rfl : s = t := Host.Outcome.next.inj h
    exact ⟨s', [], rfl, heq, by simp, by simp⟩
  | cons i is ih =>
    simp only [runInstrs] at h
    split at h
    · next u hu =>
      obtain ⟨u', first, hu', hsession, hresp, hresp'⟩ := bytesAboveTheFillNeverMatter i s s' u hs hs' heq hu
      obtain ⟨t', rest, hrun, hend, hrest, hrest'⟩ :=
        ih (exec_keeps_stateInv hs hu) (exec_keeps_stateInv hs' hu') hsession h
      refine ⟨t', first ++ rest, ?_, hend, ?_, ?_⟩
      · simp only [runInstrs, hu', hrun]
      · rw [hrest, hresp, List.append_assoc]
      · rw [hrest', hresp', List.append_assoc]
    · cases h
    · cases h

/-! ### The statements -/

/-- Settles O21: the solution in 1 to 64 is unique, and `padLen` is one. -/
theorem padLengthIsTheLeastThatFits : Obligations.PadLengthIsTheLeastThatFits := by
  intro total p hp hp64
  obtain ⟨hpos, hle, hmod⟩ := padLen_spec total
  omega

/-- Settles O22: the padding is its `pad_len` bytes and its length field, which holds the bit length exactly within
the session bound. -/
theorem paddingAndTailShape : Obligations.PaddingAndTailShape := by
  refine ⟨fun total hb => ?_, tailOf_length⟩
  obtain ⟨hpos, hle, -⟩ := padLen_spec total.toNat
  rw [pad_drop_padLen, pad_length, leNat_leBytes_64]
  exact ⟨rfl, rfl, by omega, by omega, toNat_mul_eight_of_le_maxTotalBytes hb⟩

/-- Settles O23: character `8w + 2j` stands in the piece of byte `j` of `H[w]`, whose two nibbles are eight and four
bits of the word. -/
theorem hexRenderSpellsTheDigest : Obligations.HexRenderSpellsTheDigest := by
  refine ⟨hexdigit_toNat, fun h1 h2 h3 => ?_,
    fun h => ⟨hexRender_length h, fun w j => ⟨?_, ?_⟩, fun c hc => ?_⟩⟩
  · rw [hexRender_take_eight]
    dsimp only
    decide
  · rw [← highNibble_byteOf]
    exact hexRender_getElem? h w j (k := 0) (by decide)
  · rw [← lowNibble_byteOf]
    exact hexRender_getElem? h w j (k := 1) (by decide)
  · obtain ⟨n, rfl⟩ := mem_hexRender hc
    exact hexdigit_ascii n

/-- Settles O24: the answer is the digest state the padding step leaves, rendered; the frame is that of the `FEED`
step and the session reset. -/
theorem finalizeEmitsTheDigestAndResets : Obligations.FinalizeEmitsTheDigestAndResets := by
  refine ⟨fun data s hs hb => ?_, fun data s hb => exec_finalize_refused hb, ?_⟩
  · obtain ⟨hround, hcs, hcpos, hresp⟩ := finalize_streams data s
    rw [compressTail_feed_h hs hb] at hresp
    exact ⟨finalize data s, exec_finalize_eq hb hs.carryShort, hresp, finalize_h data s, finalize_len data s,
      finalize_buflen data s, ⟨feed data s, exec_feed_eq hb hs.carryShort, finalize_buf data s⟩,
      hround, hcs, hcpos⟩
  · obtain ⟨t, ht, hresp⟩ := exec_finalize_initial (data := []) Memory.wf_reset rfl (Nat.zero_le _)
    exact ⟨t, ht, by rw [hresp]; exact digestOf_nil⟩

/-- Settles O25: a completed `FEED` is within the bound and leaves a buffer that is not full, so feeding nothing
there changes nothing and the padding step is the same. -/
theorem finalizeIsFeedThenFinalizeOfNothing : Obligations.FinalizeIsFeedThenFinalizeOfNothing := by
  intro data s u h
  obtain ⟨⟨⟩, -⟩ | ⟨_, ⟨rfl⟩, hb, hc, rfl⟩ | ⟨_, ⟨⟩, -⟩ | ⟨w, -, j, hj⟩ := exec_next_cases h
  · have hc' := feed_buflen_lt data hc
    have hb' : (feed data s).len.toNat + ([] : List Byte).length ≤ maxTotalBytes := by
      rw [feed_len, toNat_add_ofNat_of_le_maxTotalBytes hb]; exact hb
    rw [exec_finalize_eq hb hc, exec_finalize_eq hb' hc', finalize, finalize, feed_nil hc']
  · simp at hj

/-- Settles O27: the `FEED` commands leave the session of their bytes and answer nothing, and `FINALIZE` digests that
session's message with its payload. -/
theorem digestOfAnySplitMessage : Obligations.DigestOfAnySplitMessage := by
  intro chunks last s hw hinit hb
  have hchunks : chunks.flatten.length ≤ maxTotalBytes := by
    rw [List.length_append] at hb; omega
  obtain ⟨u, hrun, hu, hsession, hquiet⟩ :=
    runInstrs_feeds (msg := []) (stateInv_of_session_initial hw hinit) hinit hchunks
  obtain ⟨t, ht, hresp⟩ := exec_finalize_ofMessage hu hsession hb
  exact ⟨t, by rw [runInstrs_append hrun, runInstrs_singleton ht], hquiet ▸ hresp⟩

/-- Settles O28: `FINALIZE` leaves the initial session, the reset state's own, and a run is a function of the
session. -/
theorem finalizeLeavesTheCoreAsNew : Obligations.FinalizeLeavesTheCoreAsNew := by
  intro data s t hs h
  obtain ⟨hreset, -⟩ := resetStateMeetsTheInvariant
  have hsession : t.session = State.reset.session := session_initial_of_exec (.inr h)
  refine ⟨hsession, fun cmds v hv => ?_⟩
  obtain ⟨u, out, hu, hend, hresp, hresp'⟩ :=
    runInstrs_session_congr hreset (exec_keeps_stateInv hs h) hsession.symm hv
  have hout : v.resp = out := hresp
  exact ⟨u, hu, hend.symm, hout ▸ hresp'⟩

/-- Settles O29: after its `RESET`, `EVAL` is a `FINALIZE` on an initial session; the three results are evaluations
of the digest. -/
theorem evalIgnoresTheSessionBefore : Obligations.EvalIgnoresTheSessionBefore := by
  refine ⟨fun data s hw hb => ?_, fun _ _ => exec_finalize_initial, digestOf_nil, by decide +kernel,
    by decide +kernel⟩
  obtain ⟨t, ht, hresp⟩ := exec_finalize_initial (s := s.resetSession) hw (resetSession_session s) hb
  exact ⟨t, runInstrs_singleton ht, hresp⟩

/-- Settles O30: what the response stream gains is the 32 digits of the answer, and the buffer is appended to. -/
theorem finalizeOutAppendsThirtyTwo : Obligations.FinalizeOutAppendsThirtyTwo := by
  intro data out s t
  refine ⟨rfl, fun h => ?_⟩
  obtain ⟨-, hanswers⟩ := responsesAreThirtyTwoHexDigits
  obtain ⟨-, answer, hresp, hlen, hdigits⟩ := hanswers data s t h
  have hview : t.resp.drop s.resp.length = answer := by rw [hresp, List.drop_left]
  rw [hview, finalizeOut]
  exact ⟨by rw [List.length_append, hlen], List.take_left, List.drop_left, hresp, hlen, hdigits⟩

end Sys2Proof.Machine
end

section
/-! PROOFS. Stops (spec/60_exceptions.md): the order of the decoder's checks (R195), the closed list of verdicts
(R190, R191), going on after a length refusal (R197), and cores that share nothing (R199, spec/10_state.md R23). -/

namespace Sys2Proof.Machine

/-! ### Frames read from their length field -/

/-- The opcodes 1 and 2 are those of the payload commands (R74). -/
theorem exists_payloadCommand {op : Byte} (h : op = 0x01 ∨ op = 0x02) : ∃ mk, payloadCommand op mk := by
  obtain rfl | rfl := h
  · exact ⟨_, .inl ⟨rfl, rfl⟩⟩
  · exact ⟨_, .inr ⟨rfl, rfl⟩⟩

/-- Fewer payload bytes than the length field asks for are not a command yet (R79). -/
theorem decodePayload_of_short (mk : List Byte → Instr) {field rest : List Byte} (h8 : field.length = 8)
    (hshort : rest.length < leNat field) : decodePayload mk (field ++ rest) = .incomplete := by
  have hfield : (field ++ rest).take 8 = field := List.take_left' h8
  obtain ⟨-, h⟩ | ⟨-, -, h⟩ | ⟨-, hle, -⟩ := decodePayload_cases mk (field ++ rest)
  · exact h
  · exact h
  · rw [hfield, List.length_append] at hle
    omega

/-- With as many bytes as the length field asks for behind it, a frame is whole: those bytes are the payload
(R72). -/
theorem decodePayload_of_complete (mk : List Byte → Instr) {field rest : List Byte} (h8 : field.length = 8)
    (hfull : leNat field ≤ rest.length) :
    decodePayload mk (field ++ rest) = .command (mk (rest.take (leNat field))) (9 + leNat field) := by
  have hlen : (rest.take (leNat field)).length = leNat field := List.length_take_of_le hfull
  have h := decodePayload_append mk (rest.drop (leNat field)) h8 hlen.symm
  rwa [List.take_append_drop, hlen] at h

/-! ### Faults -/

/-- The one fault of an instruction is the defensive assertion on the carry buffer (R193, U5). -/
theorem carry_overfull_of_exec_fault {i : Instr} {s : State} {r : Fault} (h : exec i s = .fault r) :
    64 ≤ s.buflen.toNat := by
  have haccept : ∀ (data : List Byte) (effect : State → State), acceptPayload data s effect = .fault r →
      64 ≤ s.buflen.toNat := by
    intro data effect h
    obtain ⟨-, h'⟩ | ⟨-, hc, -⟩ | ⟨-, -, h'⟩ := acceptPayload_cases data s effect
    · simp [h'] at h
    · exact hc
    · simp [h'] at h
  cases i with
  | feed data | finalize data => exact haccept data _ h
  | reset | ff j | gg j | hh j | ii j => cases h

/-- A step faults only in the instruction it runs (R193). -/
theorem carry_overfull_of_step_fault {s : State} {r : Fault} (h : step s = .fault r) :
    64 ≤ s.buflen.toNat := by
  unfold step at h
  split at h
  · cases h
  · cases h
  · exact carry_overfull_of_exec_fault (onNext_fault h)
  · exact carry_overfull_of_exec_fault (onNext_fault h)

/-! ### Passing a refused frame -/

theorem skipRefusedFrame_of_command {s : State} {i : Instr} {n : Nat} (hd : decodeFrame s.cs = .command i n) :
    skipRefusedFrame s = s.consume n := by
  simp [skipRefusedFrame, hd]

/-- A `RESET` at the command position always completes, and takes its one byte (R140, R71). -/
theorem step_resetFrame {s : State} {rest : List Byte} (h : idle s) (hcs : s.cs = opcReset :: rest) :
    step s = .next (s.resetSession.consume 1) := by
  rw [step_command h (hcs ▸ decodeFrame_reset rest)]
  rfl

/-! ### One core of a system -/

/-- A step of core `k` that completes does one thing to the entry `k`, and does the same in every system where core
`k` stands as it does here (R199). -/
theorem exists_modify_of_stepCore_next {k : Nat} {sys a : System} (h : stepCore k sys = .next a) :
    ∃ f : State → State, ∀ sys' : System, sys'[k]? = sys[k]? → stepCore k sys' = .next (sys'.modify k f) := by
  obtain ⟨hk, -⟩ | ⟨s, t, hk, ht, -⟩ := stepCore_next h
  · refine ⟨id, fun sys' hsame => ?_⟩
    rw [List.modify_id]
    simp [stepCore, hsame, hk]
  · refine ⟨fun _ => t, fun sys' hsame => ?_⟩
    rw [← List.set_eq_modify]
    simp [stepCore, hsame, hk, ht]

/-- One entry of an interleaved run has been moved on once for every time the schedule names it (R199). -/
theorem runInterleaved_getElem? (sched : List Nat) (cores : List (Host.Outcome State Fault Refusal)) (k : Nat) :
    (runInterleaved sched cores)[k]? = cores[k]?.map goOn^[sched.count k] := by
  induction sched generalizing cores with
  | nil => simp
  | cons i sched ih =>
    rw [runInterleaved_cons, ih]
    by_cases hik : i = k
    · subst hik
      rw [List.getElem?_modify_eq, List.count_cons_self, Option.map_eq_map, Option.map_map]
      rfl
    · rw [List.getElem?_modify_ne _ _ hik, List.count_cons_of_ne hik]

/-- A core's own run is `goOn` from where it stands: a stopped core keeps its verdict (log 13). -/
theorem iterate_goOn_next (n : Nat) (s : State) :
    goOn^[n] (.next s) = Host.Core.run Sys2Proof.core n s := by
  induction n generalizing s with
  | zero => rfl
  | succ n ih =>
    rw [Function.iterate_succ_apply, goOn_next]
    cases h : step s with
    | next u => exact (ih u).trans (run_succ_of_step h).symm
    | fault r =>
      have hcore : Sys2Proof.core.step s = .fault r := h
      simp only [Host.Core.run, hcore]
      exact Function.iterate_fixed (goOn_fault r) n
    | refused r =>
      have hcore : Sys2Proof.core.step s = .refused r := h
      simp only [Host.Core.run, hcore]
      exact Function.iterate_fixed (goOn_refused r) n

/-! ### The statements -/

/-- Settles O37: the opcode decides before the length field is read; the field decides whether the frame is whole;
only a whole frame meets the bound. -/
theorem decoderChecksInOrder : Obligations.DecoderChecksInOrder := by
  intro s op field rest hidle hcs h8
  refine ⟨step_reserved hidle hcs, fun hop hshort => ?_, fun hop hfull hb => ?_⟩
  · obtain ⟨mk, hmk⟩ := exists_payloadCommand hop
    refine step_of_no_command hidle (.inr ?_)
    rw [hcs, decodeFrame_payloadCommand hmk, decodePayload_of_short mk h8 hshort]
  · obtain ⟨mk, hmk⟩ := exists_payloadCommand hop
    obtain ⟨-, hrefuse⟩ := sessionBoundIsEnforced
    have hd : decodeFrame s.cs = .command (mk (rest.take (leNat field))) (9 + leNat field) := by
      rw [hcs, decodeFrame_payloadCommand hmk, decodePayload_of_complete mk h8 hfull]
    refine hrefuse (rest.take (leNat field)) (9 + leNat field) s hidle ?_
      (by rwa [List.length_take_of_le hfull])
    obtain ⟨-, rfl⟩ | ⟨-, rfl⟩ := hmk
    · exact .inl hd
    · exact .inr hd

/-- Settles O40: a fault needs an over full carry buffer, which the invariant rules out, and each refusal of a step
comes with the frame at the command position. -/
theorem onlyTheTwoVerdictsStopAStep : Obligations.OnlyTheTwoVerdictsStopAStep := by
  refine fun s hs => ⟨fun r h => ?_, fun r h => ?_⟩
  · exact absurd (carry_overfull_of_step_fault h) (Nat.not_le.mpr hs.carryShort)
  · obtain ⟨op, hf, hr⟩ | ⟨data, i, n, hf, hi, hb, hr⟩ := step_refused_cases h
    · obtain ⟨-, hd⟩ := fetch_eq_reserved hf
      obtain ⟨h3, rest, hcs⟩ := decodeFrame_eq_reservedOpcode hd
      exact .inl ⟨op, rest, hcs, h3, hr⟩
    · obtain ⟨-, hd⟩ := fetch_eq_frame hf
      exact .inr ⟨data, n, hi.imp (fun h => by rw [hd, h]) (fun h => by rw [hd, h]), hb, hr⟩

/-- Settles O45: passing the frame consumes it, so the core is idle at the frame behind it, and the step there is
that of any decoded command. -/
theorem hostGoesOnAfterALengthRefusal : Obligations.HostGoesOnAfterALengthRefusal := by
  intro s n data hidle hframe _
  have hskip : skipRefusedFrame s = s.consume n :=
    hframe.elim skipRefusedFrame_of_command skipRefusedFrame_of_command
  rw [hskip]
  have hidle' : idle (s.consume n) := hidle
  obtain ⟨hruns, -⟩ := stepRunsTheDecodedInstruction
  refine ⟨rfl, fun i k hd => hruns (s.consume n) i k hidle' hd, fun rest hrest => ?_⟩
  have hcs : (s.consume n).cs = opcReset :: rest := hrest
  rw [step_resetFrame hidle' hcs]
  simp [State.consume, State.resetSession, hrest]

/-- Settles O46: steps of two cores change two different entries, so they commute, and an interleaved run is each
core's own run. -/
theorem coresAreIndependent : Obligations.CoresAreIndependent := by
  refine ⟨fun i j sys a hij ha => ?_, fun sched sys k s hk => ?_⟩
  · obtain ⟨f, hf⟩ := exists_modify_of_stepCore_next ha
    obtain rfl : sys.modify i f = a := Host.Outcome.next.inj ((hf sys rfl).symm.trans ha)
    have hframe : ∀ k, k ≠ i → (sys.modify i f)[k]? = sys[k]? := fun k hk =>
      List.getElem?_modify_ne f sys hk.symm
    have hj := hframe j hij.symm
    refine ⟨hframe, List.length_modify f sys i, fun b hb => ?_, fun r hr => ?_, fun r hr => ?_⟩
    · obtain ⟨g, hg⟩ := exists_modify_of_stepCore_next hb
      obtain rfl : sys.modify j g = b := Host.Outcome.next.inj ((hg sys rfl).symm.trans hb)
      refine ⟨_, hg _ hj, ?_⟩
      rw [List.modify_modify_ne f g sys hij]
      exact hf _ (List.getElem?_modify_ne g sys hij.symm)
    · rw [stepCore_refused] at hr ⊢
      rwa [hj]
    · rw [stepCore_fault] at hr ⊢
      rwa [hj]
  · rw [runInterleaved_getElem?, List.getElem?_map, hk]
    exact congrArg some (iterate_goOn_next _ s)

end Sys2Proof.Machine
end

section
/-! PROOFS. Reset and the end of a run (spec/70_reset_and_hazards.md): the four events that give one session
(R220), the reset state with its first digest (R221), and that every run settles or is refused (R228, R229). -/

namespace Sys2Proof.Machine

/-! ### Every step makes progress -/

/-- A core that waits on an empty command stream has nothing left to execute (R229). -/
theorem settled_of_cs_nil {s : State} (h : idle s) (hcs : s.cs = []) : settled s := by
  rw [settled, fetch_idle h, hcs]
  rfl

theorem cs_length_pos_of_not_settled {s : State} (h : idle s) (hs : ¬ settled s) : 0 < s.cs.length :=
  List.length_pos_iff.mpr fun hcs => hs (settled_of_cs_nil h hcs)

/-- A step between commands that finds a frame leaves fewer bytes waiting: a frame has its opcode at least (R71). -/
theorem step_cs_length_lt {s t : State} (hidle : idle s) (hs : ¬ settled s) (h : step s = .next t) :
    t.cs.length < s.cs.length := by
  obtain ⟨hf, -⟩ | ⟨i, n, u, hf, hu, rfl⟩ | ⟨r, u, hf, -, -⟩ := step_next_cases h
  · exact absurd hf hs
  · obtain ⟨-, hd⟩ := fetch_eq_frame hf
    obtain ⟨-, hcs, -⟩ := exec_streams hu
    have hn := decodeFrame_command_pos hd
    have hpos := cs_length_pos_of_not_settled hidle hs
    rw [State.consume_cs, hcs, List.length_drop]
    omega
  · exact absurd (hidle.symm.trans (fetch_eq_round hf)) (by simp)

theorem run_one (s : State) : Host.Core.run Sys2Proof.core 1 s = step s :=
  (iterate_goOn_next 1 s).symm

/-! ### A digest as one step -/

/-- A frame of `FINALIZE` met in an initial session is answered with its payload's digest (R173, R221). -/
theorem step_finalize_initial {s : State} {data : List Byte} {n : Nat} (hidle : idle s) (hw : s.buf.wf = true)
    (hinit : s.session = Session.initial) (hd : decodeFrame s.cs = .command (.finalize data) n)
    (hb : data.length ≤ maxTotalBytes) : ∃ t, step s = .next t ∧ t.resp = s.resp ++ digestOf data := by
  obtain ⟨t, ht, hresp⟩ := exec_finalize_initial hw hinit hb
  exact ⟨t.consume n, by rw [step_command hidle hd, ht, onNext], hresp⟩

/-! ### The statements -/

/-- Settles O44, by induction on the bytes waiting: a step takes some of them, and a refusal needs one. -/
theorem everyRunSettlesOrIsRefused : Obligations.EveryRunSettlesOrIsRefused := by
  intro s hs hidle
  induction hlen : s.cs.length using Nat.strong_induction_on generalizing s with
  | h n ih =>
    subst hlen
    by_cases hsettled : settled s
    · exact ⟨0, Nat.zero_le _, .inl ⟨s, rfl, hsettled⟩⟩
    cases hstep : step s with
    | next t =>
      have hlt := step_cs_length_lt hidle hsettled hstep
      obtain ⟨k, hk, hend⟩ :=
        ih _ hlt t (stepKeepsTheInvariant s t hs hstep) (step_keeps_idle hidle hstep) rfl
      exact ⟨k + 1, by omega, by rwa [run_succ_of_step hstep]⟩
    | fault r => exact absurd (carry_overfull_of_step_fault hstep) (Nat.not_le.mpr hs.carryShort)
    | refused r =>
      exact ⟨1, cs_length_pos_of_not_settled hidle hsettled, .inr ⟨r, (run_one s).trans hstep⟩⟩

/-- Settles O4: all four end in the session reset; `FINALIZE` answers behind what the response stream holds. -/
theorem fourResetsGiveOneState : Obligations.FourResetsGiveOneState := by
  refine ⟨⟨rfl, rfl, rfl, rfl⟩, fun s => ⟨resetSession_session s, rfl, rfl, rfl⟩,
    fun s => ⟨s.resetSession, rfl, resetSession_session s, rfl, rfl⟩, fun data s t h => ?_⟩
  obtain rfl := eq_finalize_of_exec h
  obtain ⟨-, hcs, -, hresp⟩ := finalize_streams data s
  exact ⟨finalize_session data s, hcs, _, hresp.symm⟩

/-- Settles O1: the pushed frame is the whole command stream, and its `FINALIZE` digests the empty message. -/
theorem resetStateAndItsFirstDigest : Obligations.ResetStateAndItsFirstDigest := by
  obtain ⟨t, ht, hresp⟩ := step_finalize_initial (s := hostSend [0x02, 0, 0, 0, 0, 0, 0, 0, 0] State.reset)
    (data := []) (n := 9) rfl Memory.wf_reset rfl (by decide) (Nat.zero_le _)
  exact ⟨rfl, rfl, rfl, rfl, rfl, t, ht, by rw [hresp]; exact digestOf_nil⟩

end Sys2Proof.Machine
end
